-- ==== Sys2Proof/Word.lean ====
section
/-! DEFINITION. The word types of the SHR image unpacker (30_encoding.md R52, R58; 10_state.md R19, R27, R28). -/

namespace Sys2Proof

/-- A register or a bus data value: 32 bits (10_state.md R19, 30_encoding.md R58). -/
abbrev Word := BitVec 32

/-- The unit of IN_RAM and OUT_RAM (10_state.md R29, R30). -/
abbrev Byte := BitVec 8

/-- A pixel index, a palette number or a raw colour channel (10_state.md R27, R28; 30_encoding.md R53 to R55). -/
abbrev Nibble := BitVec 4

/-- A block offset: the block's address space has 20 bits (20_memory.md R33). -/
abbrev Offset := BitVec 20

end Sys2Proof
end

