-- ==== Sys2Proof/Config.lean ====
section
/-! DEFINITION. What is fixed for the machine: the format constants of 00_scope.md R7, the address map of 20_memory.md R33,
the constant register of 10_state.md R24, and the free values (00_scope.md R11 `draw()`). -/

namespace Sys2Proof

/-- 00_scope.md R7: bytes of RawInput the decoder reads. -/
@[simp] abbrev Config.inSize : Nat := 32768
/-- 00_scope.md R7: first byte of the PixelPlane. -/
@[simp] abbrev Config.pixBase : Nat := 0
/-- 00_scope.md R7: scanlines. -/
@[simp] abbrev Config.rows : Nat := 200
/-- 00_scope.md R7: PixelPlane bytes per scanline. -/
@[simp] abbrev Config.bytesPerRow : Nat := 160
/-- 00_scope.md R7: first ScanlineControl byte. -/
@[simp] abbrev Config.scbBase : Nat := 32000
/-- 00_scope.md R7: first PaletteTable byte. -/
@[simp] abbrev Config.palBase : Nat := 32256
/-- 00_scope.md R7: bytes per palette. -/
@[simp] abbrev Config.palStride : Nat := 32
/-- 00_scope.md R7: OutputBitmap pixels per scanline. -/
@[simp] abbrev Config.width : Nat := 320
/-- 00_scope.md R7: bytes per output pixel. -/
@[simp] abbrev Config.bytesPerPixel : Nat := 4
/-- 00_scope.md R7: OutputBitmap bytes. -/
@[simp] abbrev Config.outSize : Nat := 256000
/-- 00_scope.md R7: the constant alpha byte. -/
@[simp] abbrev Config.alpha : Byte := 0xFF#8
/-- 00_scope.md R7: the 4-bit to 8-bit channel factor. -/
@[simp] abbrev Config.expandFactor : Nat := 17
/-- 20_memory.md R33: block offset of the register window. -/
@[simp] abbrev Config.regBase : Nat := 0x08000
/-- 20_memory.md R33: five 4-byte registers. -/
@[simp] abbrev Config.regSize : Nat := 20
/-- 20_memory.md R33: block offset of OUT_RAM. -/
@[simp] abbrev Config.outBase : Nat := 0x40000
/-- 20_memory.md R33: size of the block's window in a system. -/
@[simp] abbrev Config.windowSize : Nat := 0x100000
/-- 10_state.md R24: ERR_REQUIRED is the constant 32768. -/
@[simp] abbrev Config.errRequired : Word := 0x00008000#32

/-- FREE VALUE (00_scope.md R11 `draw()`; log 6): the byte a HOST read finds where the spec leaves it unspecified, keyed by
the draw counter and the block offset. The key does not name the instance: that two instances with equal counters find equal
bytes is the model's choice (DESIGN CHOICE, log 19). -/
opaque Config.freeByte : Nat → Nat → Byte

/-- FREE VALUE (10_state.md R32; log 7): the 12 bits a RESET transition leaves in a PAL entry, keyed by the draw counter and the entry
number; the key does not name the instance (DESIGN CHOICE, log 19). -/
opaque Config.freePal : Nat → Nat → BitVec 12

end Sys2Proof
end

