-- ==== Sys2Proof/Syntax.lean ====
section
/-! DEFINITION. The operations of the block, one constructor per row of spec/opcode_table.json (30_encoding.md R61), and the
parts of their encodings. -/

namespace Sys2Proof

/-- The width n of a HOST access: 1, 2 or 4 bytes; no other exists (20_memory.md R36). -/
inductive Width where
  | one | two | four
  deriving DecidableEq, Repr

/-- The direction of a HOST access (30_encoding.md R58). -/
inductive Dir where
  | rd | wr
  deriving DecidableEq, Repr

/-- The mapped regions of the address map (20_memory.md R33). -/
inductive Region where
  | inRam | regs | outRam
  deriving DecidableEq, Repr

/-- The five registers of the window (10_state.md R19). -/
inductive Reg where
  | ctrl | status | inLen | errRequired | errActual
  deriving DecidableEq, Repr

/-- The cause a BusError carries (60_exceptions.md R114). -/
inductive BusCause where
  | unmapped | width | misaligned
  deriving DecidableEq, Repr

/-- The operations of 30_encoding.md R61. -/
inductive Instr where
  /-- ENGINE step, PHASE = 0 (40_decode_command.md R69). -/
  | seqIdle
  /-- ENGINE step, PHASE = 1 (42_palette_parse.md R83). -/
  | seqPalLoad
  /-- ENGINE step, PHASE = 2 (43_scanline_unpack.md R86). -/
  | seqRowStart
  /-- ENGINE step, PHASE = 3 (46_rgba_packer.md R95). -/
  | seqPixelPair
  /-- The DECODE command (40_decode_command.md R66). -/
  | decodeCmd
  /-- The CTRL write that issues nothing (40_decode_command.md R68). -/
  | ctrlNop
  /-- Read n input bytes at offset a (47_host_bus.md R97). -/
  | inRd (n : Width) (a : Offset)
  /-- Write n input bytes v at offset a (47_host_bus.md R98). -/
  | inWr (n : Width) (a : Offset) (v : Word)
  /-- Read n output bytes at offset a (47_host_bus.md R99). -/
  | outRd (n : Width) (a : Offset)
  /-- Write n output bytes v at offset a (47_host_bus.md R100). -/
  | outWr (n : Width) (a : Offset) (v : Word)
  /-- 47_host_bus.md R101. -/
  | ctrlRd
  /-- 47_host_bus.md R102. -/
  | ctrlWr (d : Word)
  /-- 47_host_bus.md R103. -/
  | statusRd
  /-- 47_host_bus.md R104. -/
  | statusWr (d : Word)
  /-- 47_host_bus.md R105. -/
  | inLenRd
  /-- 47_host_bus.md R106. -/
  | inLenWr (d : Word)
  /-- 47_host_bus.md R107. -/
  | errRequiredRd
  /-- 47_host_bus.md R108. -/
  | errRequiredWr (d : Word)
  /-- 47_host_bus.md R109. -/
  | errActualRd
  /-- 47_host_bus.md R110. -/
  | errActualWr (d : Word)
  /-- An access of n bytes at offset a that fails the checks of 20_memory.md R40; v is the data of a write (47_host_bus.md R111). -/
  | busFault (dir : Dir) (n : Width) (a : Offset) (v : Word)
  /-- Decode one colour word from its low and high byte (42_palette_parse.md R82). -/
  | paletteWordParse (lo hi : Byte)
  /-- The palette index of a scanline control byte (43_scanline_unpack.md R85). -/
  | scbSelect (scb : Byte)
  /-- The two pixel indices of a PixelPlane byte (43_scanline_unpack.md R87). -/
  | pixelSplit (b : Byte)
  /-- The colour entry of a palette and a pixel index (44_palette_lookup.md R89). -/
  | paletteLookup (psel idx : Nibble)
  /-- Expand one channel (45_channel_expander.md R91). -/
  | channelExpand (v : Nibble)
  /-- Write the output pixel (x, y) from an entry (46_rgba_packer.md R94). -/
  | rgbaPack (y : BitVec 8) (x : BitVec 9) (r4 g4 b4 : Nibble)
  deriving DecidableEq, Repr

/-- The encoded formats of spec/opcode_table.json (30_encoding.md R52; the last two are the table's own pattern rows). -/
inductive Format where
  /-- SEQ_PHASE, 2 bits (30_encoding.md R59). -/
  | seqPhase
  /-- CTRL_WORD, 32 bits (30_encoding.md R57). -/
  | ctrlWord
  /-- BUS_TXN, a 23-bit key (30_encoding.md R58). -/
  | busTxn
  /-- COLOUR_WORD, 16 bits (30_encoding.md R55). -/
  | colourWord
  /-- SCB_BYTE, 8 bits (30_encoding.md R54). -/
  | scbByte
  /-- PIXEL_BYTE, 8 bits (30_encoding.md R53). -/
  | pixelByte
  /-- RGBA_PIXEL, 32 bits (30_encoding.md R56). -/
  | rgbaPixel
  /-- The pair (PSEL, index), 8 bits (44_palette_lookup.md R89). -/
  | palSelect
  /-- One channel field, 4 bits (45_channel_expander.md R91). -/
  | channel
  deriving DecidableEq, Repr

/-- An encoded operation: its format, the format's bits (bit 0 least significant, zero above the format's length) and an
operand word: the data of a bus write (30_encoding.md R58), OUT_ADDR of the pixel for RGBA_PIXEL (46_rgba_packer.md
R94; log 11), zero for every other format. -/
structure OpWord where
  format : Format
  word : Word
  data : Word
  deriving DecidableEq, Repr

/-- Why the decoder rejects an encoded operation; none of these is an encoding of the spec (log 12). -/
inductive DecodeError where
  /-- A bit above the format's length is set. -/
  | strayBits
  /-- The operand word of a format without operand word is not zero. -/
  | strayData
  /-- WCODE is 0b11, which never occurs (30_encoding.md R58). -/
  | noSuchWidth
  /-- The data of a write does not fit in n bytes (30_encoding.md R58). -/
  | dataTooWide
  /-- No register stands at the offset (10_state.md R19). -/
  | noSuchRegister
  /-- The alpha byte of an RGBA_PIXEL is not 0xFF (30_encoding.md R56). -/
  | notOpaque
  /-- A channel of an RGBA_PIXEL is not a 4-bit value in both nibbles (45_channel_expander.md R92). -/
  | notReplicated
  /-- The operand word of an RGBA_PIXEL is no OUT_ADDR of a pixel (41_region_extraction.md R79). -/
  | notAPixelAddress
  /-- A SEQ_PHASE or BUS_TXN word presented where a command or a datapath unit is expected (log 3). -/
  | notAUnit
  deriving DecidableEq, Repr

end Sys2Proof
end

