-- ==== Sys2Proof/Machine/Operands.lean ====
section
/-! DEFINITION. Operand forms: the field slices of 30_encoding.md R53 to R60, the widths and codes of a bus transaction
(R58), the regions and checks of an access (20_memory.md R33, R36, R37, R40) and the address functions
(41_region_extraction.md R76 to R79). -/

namespace Sys2Proof.Machine

/-- The number of bytes n of an access (20_memory.md R36). -/
def nBytes : Width → Nat
  | .one => 1
  | .two => 2
  | .four => 4

/-- WCODE (30_encoding.md R58). -/
def widthCode : Width → Nat
  | .one => 0
  | .two => 1
  | .four => 2

/-- The width of a WCODE; 0b11 never occurs (30_encoding.md R58). -/
def widthOfCode : Nat → Option Width
  | 0 => some .one
  | 1 => some .two
  | 2 => some .four
  | _ => none

/-- DIR: 0 = RD, 1 = WR (30_encoding.md R58). -/
def dirCode : Dir → Nat
  | .rd => 0
  | .wr => 1

/-- 2 to the 8n: an n-byte value lies below it (20_memory.md R36). -/
def widthLimit : Width → Nat
  | .one => 0x100
  | .two => 0x10000
  | .four => 0x100000000

/-- `v` is an n-byte data value (30_encoding.md R58). -/
def fitsWidth (n : Width) (v : Word) : Bool := decide (v.toNat < widthLimit n)

/-- First offset of a region (20_memory.md R33). -/
def regionBase : Region → Nat
  | .inRam => 0
  | .regs => Config.regBase
  | .outRam => Config.outBase

/-- Bytes of a region (20_memory.md R33). -/
def regionSize : Region → Nat
  | .inRam => Config.inSize
  | .regs => Config.regSize
  | .outRam => Config.outSize

/-- Bytes a .. a+n-1 are inside region r (20_memory.md R40). -/
def insideRegion (r : Region) (n : Width) (a : Offset) : Bool :=
  regionBase r ≤ a.toNat ∧ a.toNat + nBytes n ≤ regionBase r + regionSize r

/-- The one mapped region that holds all the bytes of an access, if any (20_memory.md R33, R40). -/
def regionOf (n : Width) (a : Offset) : Option Region :=
  if insideRegion .inRam n a then some .inRam
  else if insideRegion .regs n a then some .regs
  else if insideRegion .outRam n a then some .outRam
  else none

/-- The widths a region accepts (20_memory.md R36). -/
def acceptsWidth : Region → Width → Bool
  | .regs, .four => true
  | .regs, _ => false
  | _, _ => true

/-- The checks of an access, in the order of 20_memory.md R40; none when the access passes. -/
def busCheck (n : Width) (a : Offset) : Option BusCause :=
  match regionOf n a with
  | none => some .unmapped
  | some r =>
    if acceptsWidth r n = false then some .width
    else if a.toNat % nBytes n ≠ 0 then some .misaligned
    else none

/-- The register at an offset (10_state.md R19). -/
def regAt (a : Offset) : Option Reg :=
  if a = 0x08000#20 then some .ctrl
  else if a = 0x08004#20 then some .status
  else if a = 0x08008#20 then some .inLen
  else if a = 0x0800C#20 then some .errRequired
  else if a = 0x08010#20 then some .errActual
  else none

/-- The offset of a register (10_state.md R19). -/
def regOffset : Reg → Offset
  | .ctrl => 0x08000#20
  | .status => 0x08004#20
  | .inLen => 0x08008#20
  | .errRequired => 0x0800C#20
  | .errActual => 0x08010#20

/-- HI of a PIXEL_BYTE, the left pixel (30_encoding.md R53, R60). -/
def hiNibble (b : Byte) : Nibble := b.extractLsb' 4 4

/-- LO of a PIXEL_BYTE, the right pixel; PSEL of an SCB_BYTE (30_encoding.md R53, R54, R60). -/
def loNibble (b : Byte) : Nibble := b.extractLsb' 0 4

/-- The COLOUR_WORD of its two bytes, little-endian (30_encoding.md R55, R60). -/
def colourWord (lo hi : Byte) : BitVec 16 := hi ++ lo

/-- R4 of a COLOUR_WORD (30_encoding.md R60). -/
def wordRed (w : BitVec 16) : Nibble := w.extractLsb' 8 4
/-- G4 of a COLOUR_WORD (30_encoding.md R60). -/
def wordGreen (w : BitVec 16) : Nibble := w.extractLsb' 4 4
/-- B4 of a COLOUR_WORD (30_encoding.md R60). -/
def wordBlue (w : BitVec 16) : Nibble := w.extractLsb' 0 4

/-- START of a CTRL_WORD; bits 31:1 are ignored (30_encoding.md R57). -/
def startBit (d : Word) : Bool := d.getLsbD 0

/-- PIX_ADDR (41_region_extraction.md R76). -/
def pixAddr (row col : Nat) : Nat := Config.bytesPerRow * row + col

/-- SCB_ADDR (41_region_extraction.md R77). -/
def scbAddr (row : Nat) : Nat := Config.scbBase + row

/-- PAL_ADDR, the low byte of colour c of palette p (41_region_extraction.md R78). -/
def palAddr (p c : Nibble) : Nat := Config.palBase + Config.palStride * p.toNat + 2 * c.toNat

/-- OUT_ADDR, the red byte of pixel (x, y) (41_region_extraction.md R79). -/
def outAddr (y x : Nat) : Nat := Config.bytesPerPixel * (Config.width * y + x)

/-- The PAL entry number 16p + c (44_palette_lookup.md R89). -/
def palIndex (p c : Nibble) : Fin 256 :=
  ⟨16 * p.toNat + c.toNat, by have := p.isLt; have := c.isLt; omega⟩

/-- The palette of a palette-table entry number (10_state.md R27: palette = PIDX[7:4]). -/
def pidxPalette (pidx : BitVec 8) : Nibble := pidx.extractLsb' 4 4

/-- The colour of a palette-table entry number (10_state.md R27: colour = PIDX[3:0]). -/
def pidxColour (pidx : BitVec 8) : Nibble := pidx.extractLsb' 0 4

/-- CHANNEL_EXPAND: 17 * v, in 8 bits (45_channel_expander.md R91). -/
def expand (v : Nibble) : Byte := BitVec.ofNat 8 (Config.expandFactor * v.toNat)

/-- Byte k of a data value, v[8k+7 : 8k] (20_memory.md R39). -/
def byteOf (v : Word) (k : Nat) : Byte := v.extractLsb' (8 * k) 8

/-- The n bytes of a data value, lowest offset first (20_memory.md R38, R39). -/
def leBytes (n : Nat) (v : Word) : List Byte := (List.range n).map (byteOf v)

/-- The value of bytes in increasing offset order: the sum of byte k shifted left by 8k (20_memory.md R39). -/
def leValue : List Byte → Nat
  | [] => 0
  | b :: bs => b.toNat + 256 * leValue bs

/-- The four bytes of an output pixel: R, G, B, alpha 0xFF (30_encoding.md R56, 46_rgba_packer.md R94). -/
def pixelBytes (r4 g4 b4 : Nibble) : List Byte := [expand r4, expand g4, expand b4, Config.alpha]

end Sys2Proof.Machine
end

