-- ==== Sys2Proof/WellFormed.lean ====
section
/-! DEFINITION. The well-formed operations: those an encoding of the spec denotes. A bus operation passes the checks of
20_memory.md R40 in its own region, BUS_FAULT fails them (30_encoding.md R58), write data fits its width, and RGBA_PACK
names a pixel of the bitmap (46_rgba_packer.md R94). -/

namespace Sys2Proof

/-- An access of region r that passes 20_memory.md R40. -/
def passesIn (r : Region) (n : Width) (a : Offset) : Bool :=
  decide (Machine.busCheck n a = none) && decide (Machine.regionOf n a = some r)

/-- The data of an access: n bytes for a write, none (zero here) for a read (30_encoding.md R58). -/
def dataOk (dir : Dir) (n : Width) (v : Word) : Bool :=
  match dir with
  | .rd => decide (v = 0#32)
  | .wr => Machine.fitsWidth n v

/-- The operation is one that some encoding denotes. -/
def WellFormed : Instr → Bool
  | .seqIdle => true
  | .seqPalLoad => true
  | .seqRowStart => true
  | .seqPixelPair => true
  | .decodeCmd => true
  | .ctrlNop => true
  | .inRd n a => passesIn .inRam n a
  | .inWr n a v => passesIn .inRam n a && dataOk .wr n v
  | .outRd n a => passesIn .outRam n a
  | .outWr n a v => passesIn .outRam n a && dataOk .wr n v
  | .ctrlRd => true
  | .ctrlWr _ => true
  | .statusRd => true
  | .statusWr _ => true
  | .inLenRd => true
  | .inLenWr _ => true
  | .errRequiredRd => true
  | .errRequiredWr _ => true
  | .errActualRd => true
  | .errActualWr _ => true
  | .busFault dir n a v => (Machine.busCheck n a).isSome && dataOk dir n v
  | .paletteWordParse _ _ => true
  | .scbSelect _ => true
  | .pixelSplit _ => true
  | .paletteLookup _ _ => true
  | .channelExpand _ => true
  | .rgbaPack y x _ _ _ => decide (y.toNat < Config.rows) && decide (x.toNat < Config.width)

end Sys2Proof
end

