-- ==== Sys2Proof/Decode.lean ====
section
/-! DEFINITION. The decoder, total on every encoded operation and rejecting by name, and after it the encoder, both from
30_encoding.md R53 to R60 and spec/opcode_table.json; then the host's reading of an opcode-table row. -/

namespace Sys2Proof

/-- 2 to the length of a format in bits (30_encoding.md R52; spec/opcode_table.json for the last two): 2, 32, 23, 16, 8, 8, 32, 8
and 4 bits. -/
def formatLimit : Format → Nat
  | .seqPhase => 0x4
  | .ctrlWord => 0x100000000
  | .busTxn => 0x800000
  | .colourWord => 0x10000
  | .scbByte => 0x100
  | .pixelByte => 0x100
  | .rgbaPixel => 0x100000000
  | .palSelect => 0x100
  | .channel => 0x10

/-- SEQ_PHASE (30_encoding.md R59): all four values are used. -/
def decodePhase (w : BitVec 2) : Instr :=
  if w = 0#2 then .seqIdle
  else if w = 1#2 then .seqPalLoad
  else if w = 2#2 then .seqRowStart
  else .seqPixelPair

/-- CTRL_WORD (30_encoding.md R57): bit 0 alone decides; bits 31:1 are ignored. -/
def decodeCtrl (d : Word) : Instr := if Machine.startBit d then .decodeCmd else .ctrlNop

/-- The operation of a register access (30_encoding.md R61, 10_state.md R19). -/
def selectReg (dir : Dir) (r : Reg) (v : Word) : Instr :=
  match r, dir with
  | .ctrl, .rd => .ctrlRd
  | .ctrl, .wr => .ctrlWr v
  | .status, .rd => .statusRd
  | .status, .wr => .statusWr v
  | .inLen, .rd => .inLenRd
  | .inLen, .wr => .inLenWr v
  | .errRequired, .rd => .errRequiredRd
  | .errRequired, .wr => .errRequiredWr v
  | .errActual, .rd => .errActualRd
  | .errActual, .wr => .errActualWr v

/-- The operation of an access that passes 20_memory.md R40, by its region (30_encoding.md R61). -/
def selectTxn (dir : Dir) (n : Width) (a : Offset) (v : Word) : Except DecodeError Instr :=
  match Machine.regionOf n a with
  | some .inRam => .ok (match dir with | .rd => .inRd n a | .wr => .inWr n a v)
  | some .outRam => .ok (match dir with | .rd => .outRd n a | .wr => .outWr n a v)
  | _ =>
    match Machine.regAt a with
    | some r => .ok (selectReg dir r v)
    | none => .error .noSuchRegister

/-- DIR of a key (30_encoding.md R58). -/
def keyDir (key : Word) : Dir := if key.getLsbD 22 then .wr else .rd

/-- WCODE of a key (30_encoding.md R58). -/
def keyWidthCode (key : Word) : Nat := (key.extractLsb' 20 2).toNat

/-- OFFSET of a key (30_encoding.md R58). -/
def keyOffset (key : Word) : Offset := key.extractLsb' 0 20

/-- A transaction of known fields: an access that fails 20_memory.md R40 is BUS_FAULT whatever row its key matches
(30_encoding.md R58). -/
def decodeFields (dir : Dir) (n : Width) (a : Offset) (v : Word) : Except DecodeError Instr :=
  if dataOk dir n v then
    match Machine.busCheck n a with
    | some _ => .ok (.busFault dir n a v)
    | none => selectTxn dir n a v
  else .error (match dir with | .rd => .strayData | .wr => .dataTooWide)

/-- BUS_TXN: the key {DIR, WCODE, OFFSET} and the data of a write (30_encoding.md R58). -/
def decodeTxn (key v : Word) : Except DecodeError Instr :=
  match Machine.widthOfCode (keyWidthCode key) with
  | some n => decodeFields (keyDir key) n (keyOffset key) v
  | none => .error .noSuchWidth

/-- A channel byte holds its 4-bit value in both nibbles (45_channel_expander.md R92). -/
def replicated (b : Byte) : Bool := decide (Machine.hiNibble b = Machine.loNibble b)

/-- RGBA_PIXEL (30_encoding.md R56) at the OUT_RAM offset in the operand word (41_region_extraction.md R79). -/
def decodePixel (w o : Word) : Except DecodeError Instr :=
  if Machine.byteOf w 3 ≠ Config.alpha then .error .notOpaque
  else if ¬ (replicated (Machine.byteOf w 0) ∧ replicated (Machine.byteOf w 1) ∧ replicated (Machine.byteOf w 2)) then
    .error .notReplicated
  else if ¬ (o.toNat % 4 = 0 ∧ o.toNat < Config.outSize) then .error .notAPixelAddress
  else .ok (.rgbaPack (BitVec.ofNat 8 (o.toNat / 4 / Config.width)) (BitVec.ofNat 9 (o.toNat / 4 % Config.width))
    (Machine.loNibble (Machine.byteOf w 0)) (Machine.loNibble (Machine.byteOf w 1)) (Machine.loNibble (Machine.byteOf w 2)))

/-- A format without operand word. -/
def plain (v : Word) (i : Instr) : Except DecodeError Instr := if v = 0#32 then .ok i else .error .strayData

/-- The operation of a word that fits its format, by format (30_encoding.md R53 to R59). -/
def decodeFormat (f : Format) (w v : Word) : Except DecodeError Instr :=
  match f with
  | .seqPhase => plain v (decodePhase (w.extractLsb' 0 2))
  | .ctrlWord => plain v (decodeCtrl w)
  | .busTxn => decodeTxn w v
  | .colourWord => plain v (.paletteWordParse (Machine.byteOf w 0) (Machine.byteOf w 1))
  | .scbByte => plain v (.scbSelect (Machine.byteOf w 0))
  | .pixelByte => plain v (.pixelSplit (Machine.byteOf w 0))
  | .rgbaPixel => decodePixel w v
  | .palSelect =>
    plain v (.paletteLookup (Machine.hiNibble (Machine.byteOf w 0)) (Machine.loNibble (Machine.byteOf w 0)))
  | .channel => plain v (.channelExpand (w.extractLsb' 0 4))

/-- The decoder (30_encoding.md R52 to R59), total on every `OpWord`. -/
def decode (op : OpWord) : Except DecodeError Instr :=
  if op.word.toNat < formatLimit op.format then decodeFormat op.format op.word op.data else .error .strayBits

/-- KEY = {DIR, WCODE[1:0], OFFSET[19:0]} (30_encoding.md R58). -/
def txnKey (dir : Dir) (n : Width) (a : Offset) : Word :=
  BitVec.ofNat 32 (Machine.dirCode dir * 0x400000 + Machine.widthCode n * 0x100000 + a.toNat)

/-- A bus transaction (30_encoding.md R58). -/
def encodeTxn (dir : Dir) (n : Width) (a : Offset) (v : Word) : OpWord := ⟨.busTxn, txnKey dir n a, v⟩

/-- A register access: 4 bytes at the register's offset (10_state.md R19, R36). -/
def encodeReg (dir : Dir) (r : Reg) (v : Word) : OpWord := encodeTxn dir .four (Machine.regOffset r) v

/-- The encoder, from the same formats (30_encoding.md R53 to R59, R61). Ignored bits are encoded as zero. -/
def encode : Instr → OpWord
  | .seqIdle => ⟨.seqPhase, 0#32, 0#32⟩
  | .seqPalLoad => ⟨.seqPhase, 1#32, 0#32⟩
  | .seqRowStart => ⟨.seqPhase, 2#32, 0#32⟩
  | .seqPixelPair => ⟨.seqPhase, 3#32, 0#32⟩
  | .decodeCmd => ⟨.ctrlWord, 1#32, 0#32⟩
  | .ctrlNop => ⟨.ctrlWord, 0#32, 0#32⟩
  | .inRd n a => encodeTxn .rd n a 0#32
  | .inWr n a v => encodeTxn .wr n a v
  | .outRd n a => encodeTxn .rd n a 0#32
  | .outWr n a v => encodeTxn .wr n a v
  | .ctrlRd => encodeReg .rd .ctrl 0#32
  | .ctrlWr d => encodeReg .wr .ctrl d
  | .statusRd => encodeReg .rd .status 0#32
  | .statusWr d => encodeReg .wr .status d
  | .inLenRd => encodeReg .rd .inLen 0#32
  | .inLenWr d => encodeReg .wr .inLen d
  | .errRequiredRd => encodeReg .rd .errRequired 0#32
  | .errRequiredWr d => encodeReg .wr .errRequired d
  | .errActualRd => encodeReg .rd .errActual 0#32
  | .errActualWr d => encodeReg .wr .errActual d
  | .busFault dir n a v => encodeTxn dir n a v
  | .paletteWordParse lo hi => ⟨.colourWord, (Machine.colourWord lo hi).setWidth 32, 0#32⟩
  | .scbSelect scb => ⟨.scbByte, scb.setWidth 32, 0#32⟩
  | .pixelSplit b => ⟨.pixelByte, b.setWidth 32, 0#32⟩
  | .paletteLookup psel idx => ⟨.palSelect, (psel ++ idx).setWidth 32, 0#32⟩
  | .channelExpand v => ⟨.channel, v.setWidth 32, 0#32⟩
  | .rgbaPack y x r4 g4 b4 =>
    ⟨.rgbaPixel, BitVec.ofNat 32 (Machine.leValue (Machine.pixelBytes r4 g4 b4)),
      BitVec.ofNat 32 (Machine.outAddr y.toNat x.toNat)⟩

/-- A row of the table in format BUS_TXN, as its mask and match (30_encoding.md R58: a row matches a key when
KEY & mask = match). -/
def rowMatches (mask pattern key : Word) : Bool := decide (key &&& mask = pattern)

/-- The mask and match of an operation's row of spec/opcode_table.json, for the BUS_TXN rows. -/
def busRow : Instr → Option (Word × Word)
  | .inRd _ _ => some (0x4F8000#32, 0x000000#32)
  | .inWr _ _ _ => some (0x4F8000#32, 0x400000#32)
  | .outRd _ _ => some (0x4C0000#32, 0x040000#32)
  | .outWr _ _ _ => some (0x4C0000#32, 0x440000#32)
  | .ctrlRd => some (0x7FFFFF#32, 0x208000#32)
  | .ctrlWr _ => some (0x7FFFFF#32, 0x608000#32)
  | .statusRd => some (0x7FFFFF#32, 0x208004#32)
  | .statusWr _ => some (0x7FFFFF#32, 0x608004#32)
  | .inLenRd => some (0x7FFFFF#32, 0x208008#32)
  | .inLenWr _ => some (0x7FFFFF#32, 0x608008#32)
  | .errRequiredRd => some (0x7FFFFF#32, 0x20800C#32)
  | .errRequiredWr _ => some (0x7FFFFF#32, 0x60800C#32)
  | .errActualRd => some (0x7FFFFF#32, 0x208010#32)
  | .errActualWr _ => some (0x7FFFFF#32, 0x608010#32)
  | .busFault _ _ _ _ => some (0x000000#32, 0x000000#32)
  | .seqIdle => none
  | .seqPalLoad => none
  | .seqRowStart => none
  | .seqPixelPair => none
  | .decodeCmd => none
  | .ctrlNop => none
  | .paletteWordParse _ _ => none
  | .scbSelect _ => none
  | .pixelSplit _ => none
  | .paletteLookup _ _ => none
  | .channelExpand _ => none
  | .rgbaPack _ _ _ _ _ => none

/-- The format of a bare table word. The table's formats share their bits, so a bare word is read in the narrowest format
that holds it, and a 32-bit word with alpha 0xFF as RGBA_PIXEL, the only 32-bit row that fixes those bits (log 10). -/
def tableFormat (nbits w : Nat) : Format :=
  if nbits ≤ 8 then (if w < 4 then .seqPhase else if w < 16 then .channel else .pixelByte)
  else if nbits ≤ 16 then .colourWord
  else if nbits ≤ 24 then .busTxn
  else if w / 0x1000000 = 255 then .rgbaPixel
  else .ctrlWord

/-- A bare table word as an encoded operation with operand word zero. -/
def tableOpWord (nbits w : Nat) : OpWord := ⟨tableFormat nbits (w % 2 ^ nbits), BitVec.ofNat 32 (w % 2 ^ nbits), 0#32⟩

/-- The operation the decoder reads from a bare table word (log 10). -/
def decodeTableWord (nbits w : Nat) : Option Instr :=
  match decode (tableOpWord nbits w) with
  | .ok i => some i
  | .error _ => none

end Sys2Proof
end

