-- ==== Sys2Proof/Machine/State.lean ====
section
/-! DEFINITION. The state of the block (10_state.md), the transitions the outside world decides (R14), the reasons a step can
stop, and the state after reset (R32). -/

namespace Sys2Proof.Machine

/-- A byte memory: the listed bytes, offsets strictly rising. A byte is listed exactly when it was written since RESET, so the
list is also the written mark of 10_state.md R31 (log 8). -/
abbrev Memory := List Host.Cell

/-- PHASE (10_state.md R26, 30_encoding.md R59). -/
inductive Phase where
  | idle | palLoad | rowStart | pixelPair
  deriving DecidableEq, Repr

/-- A palette entry: three raw 4-bit channels, 12 bits (10_state.md R28). -/
structure PalEntry where
  r4 : Nibble
  g4 : Nibble
  b4 : Nibble
  deriving DecidableEq, Repr

/-- The response to a HOST access (60_exceptions.md R114; log 5). A read's value is zero-extended to 32 bits. -/
inductive BusResponse where
  /-- No access since RESET. -/
  | none
  /-- A read completed and returned the value. -/
  | readOk (v : Word)
  /-- A write completed. -/
  | writeOk
  /-- A read completed with BusError: the cause and the data value 0. -/
  | readError (cause : BusCause) (v : Word)
  /-- A write completed with BusError. -/
  | writeError (cause : BusCause)
  deriving DecidableEq, Repr

/-- What a datapath unit answers when it is run on its own (log 4). -/
inductive UnitResult where
  /-- PALETTE_WORD_PARSE, PALETTE_LOOKUP (R82, R89). -/
  | entry (e : PalEntry)
  /-- SCB_SELECT (R85). -/
  | palette (p : Nibble)
  /-- PIXEL_SPLIT (R87). -/
  | indices (hi lo : Nibble)
  /-- CHANNEL_EXPAND (R91). -/
  | channel (v : Byte)
  deriving DecidableEq, Repr

/-- One transition that the outside world decides (10_state.md R14; log 1). -/
inductive Input where
  /-- One HOST access: a BUS_TXN key and the data of a write (30_encoding.md R58). -/
  | bus (key : Word) (data : Word)
  /-- The ENGINE's turn (10_state.md R14). -/
  | engine
  /-- RESET (70_reset_and_hazards.md R128). -/
  | reset
  /-- A command or a datapath unit run on its own: no transition of the hardware, the model's way to run such a row (log 3). -/
  | unit (op : OpWord)
  deriving DecidableEq, Repr

/-- The reasons a run is faulted: the ModelFaults of 60_exceptions.md R115. -/
inductive Fault where
  /-- Raised by IN_WR and OUT_WR while BUSY = 1 (70_reset_and_hazards.md R131). Safe: the run stops where the hardware goes on. -/
  | hostWriteWhileBusy
  /-- Raised by SEQ_PAL_LOAD, SEQ_ROW_START and SEQ_PIXEL_PAIR when they read an IN_RAM byte not written since RESET (10_state.md
  R31). Safe: the run stops where the hardware goes on. -/
  | unwrittenInput
  deriving DecidableEq, Repr

/-- The reasons a step has no meaning. -/
inductive Refusal where
  /-- Raised by an arm of `exec` whose operation has no meaning yet. Safe. -/
  | notModelled (mnemonic : String)
  /-- Raised by `step` for an input that is no encoding of the spec (log 12). Safe: no hardware transition has such an input. -/
  | undecodable (why : DecodeError)
  /-- Raised by a meaning for a term that no encoding denotes: an access of another region, a BUS_FAULT that passes the checks, a
  pixel outside the bitmap (log 13). Safe: the decoder answers no such term. -/
  | illFormed
  deriving DecidableEq, Repr

/-- The state of the block; INVENTORY.md lists each field with its rule. -/
structure State where
  /-- STATUS.BUSY (10_state.md R21). -/
  busy : Bool
  /-- STATUS.DONE (10_state.md R21). -/
  done : Bool
  /-- STATUS.ERR (10_state.md R21). -/
  err : Bool
  /-- STATUS.ERRCODE (10_state.md R21, 60_exceptions.md R113). -/
  errcode : BitVec 4
  /-- IN_LEN (10_state.md R23). -/
  inLen : Word
  /-- ERR_ACTUAL (10_state.md R25). -/
  errActual : Word
  /-- PHASE (10_state.md R26). -/
  phase : Phase
  /-- PIDX (10_state.md R27). -/
  pidx : BitVec 8
  /-- ROW (10_state.md R27). -/
  row : BitVec 8
  /-- COL (10_state.md R27). -/
  col : BitVec 8
  /-- PSEL (10_state.md R27). -/
  psel : Nibble
  /-- PAL, entry 16p + c (10_state.md R28, 44_palette_lookup.md R89). -/
  pal : Vector PalEntry 256
  /-- IN_RAM and its written marks, by IN_RAM offset (10_state.md R29, R31). -/
  inRam : Memory
  /-- OUT_RAM, by OUT_RAM offset: block offset minus 0x40000 (10_state.md R30). -/
  outRam : Memory
  /-- The model's own: the response to the last HOST access (log 5). -/
  response : BusResponse
  /-- The model's own: the answer of the last unit run on its own (log 4). -/
  unitOut : Option UnitResult
  /-- The model's own: the transitions to come (log 1). -/
  inputs : List Input
  /-- The model's own: the key of the free values (log 6). -/
  draws : Nat
  deriving DecidableEq, Repr

/-- The state after RESET (10_state.md R32). PAL's zeros are the model's choice (log 7). -/
def State.reset : State where
  busy := false
  done := false
  err := false
  errcode := 0#4
  inLen := 0#32
  errActual := 0#32
  phase := .idle
  pidx := 0#8
  row := 0#8
  col := 0#8
  psel := 0#4
  pal := Vector.replicate 256 ⟨0#4, 0#4, 0#4⟩
  inRam := []
  outRam := []
  response := .none
  unitOut := Option.none
  inputs := []
  draws := 0

/-- What the machine does next: run an operation from a state, apply RESET, or refuse an input. -/
inductive Fetched where
  | run (i : Instr) (s : State)
  | reset (s : State)
  | bad (why : DecodeError)
  deriving DecidableEq, Repr

end Sys2Proof.Machine
end

