-- ==== Sys2Proof/Machine/Flags.lean ====
section
/-! DEFINITION. The STATUS register and the changes of its flags (10_state.md R21). -/

namespace Sys2Proof.Machine

/-- A Boolean flag as one bit. -/
def flagBit (b : Bool) : BitVec 1 := if b then 1#1 else 0#1

/-- STATUS as read: zext_32 of ERRCODE, 0, ERR, DONE, BUSY (10_state.md R21, 47_host_bus.md R103). -/
def statusWord (s : State) : Word :=
  (s.errcode ++ 0#1 ++ flagBit s.err ++ flagBit s.done ++ flagBit s.busy : BitVec 8).setWidth 32

/-- An accepted DECODE clears the previous record before its length check (40_decode_command.md R66, 60_exceptions.md R120). -/
def clearRecord (s : State) : State :=
  { s with done := false, err := false, errcode := 0#4, errActual := 0#32 }

/-- A DECODE that passes the length check starts the ENGINE (40_decode_command.md R66). -/
def startEngine (s : State) : State :=
  { s with busy := true, phase := .palLoad, pidx := 0#8, row := 0#8, col := 0#8 }

/-- The completion of a decode (46_rgba_packer.md R95). -/
def finishDecode (s : State) : State :=
  { s with row := 0#8, phase := .idle, busy := false, done := true }

end Sys2Proof.Machine
end

