-- ==== Sys2Proof/Machine/Ops.lean ====
section
/-! DEFINITION. The shared operations: memory, HOST accesses and their responses, registers, the DECODE command and the
error it raises, the palette file, and RESET. -/

namespace Sys2Proof.Machine

/-- What an unlisted offset holds: no value, since nothing wrote it after RESET (10_state.md R31; log 8). -/
def unlisted : Option Byte := none

/-- One byte of a memory. -/
def readByte : Memory → Nat → Option Byte
  | [], _ => unlisted
  | (k, v) :: m, a => if a = k then some v else readByte m a

/-- Store one byte, keeping offsets strictly rising. -/
def writeByte : Memory → Nat → Byte → Memory
  | [], a, v => [(a, v)]
  | (k, w) :: m, a, v =>
    if a < k then (a, v) :: (k, w) :: m
    else if a = k then (a, v) :: m
    else (k, w) :: writeByte m a v

/-- Store bytes at consecutive offsets, the first at `a`. -/
def storeBytes : Memory → Nat → List Byte → Memory
  | m, _, [] => m
  | m, a, v :: vs => storeBytes (writeByte m a v) (a + 1) vs

/-- Every offset listed is at least `lo`, and offsets rise strictly. -/
def risingFrom : Nat → Memory → Bool
  | _, [] => true
  | lo, (k, _) :: m => decide (lo ≤ k) && risingFrom (k + 1) m

/-- The canonical form: offsets strictly rising, no entry equal to what an unlisted offset holds. -/
def Memory.wf (m : Memory) : Bool :=
  risingFrom 0 m && m.all fun c => decide (some c.2 ≠ unlisted)

/-- Every listed offset is inside a memory of the given size (10_state.md R29, R30). -/
def inBounds (size : Nat) (m : Memory) : Bool := m.all fun c => decide (c.1 < size)

/-- MemRead: n bytes at offset a, little-endian (20_memory.md R39). -/
def memRead (loc : Nat → Byte) (a n : Nat) : Word :=
  BitVec.ofNat 32 (leValue ((List.range n).map fun k => loc (a + k)))

/-- MemWrite: n bytes of v at offset a, little-endian (20_memory.md R39). -/
def memWrite (m : Memory) (a n : Nat) (v : Word) : Memory := storeBytes m a (leBytes n v)

/-- A byte of IN_RAM as a HOST read finds it: a free value where nothing was written since RESET (47_host_bus.md R97). Whether such
bytes of two instances agree the spec leaves open (00_scope.md R11); the model's key makes them agree at equal counters
(DESIGN CHOICE, log 19). -/
def hostInByte (s : State) (a : Nat) : Byte := (readByte s.inRam a).getD (Config.freeByte s.draws a)

/-- A byte of OUT_RAM, by block offset, as a HOST read finds it while idle: a free value where nothing was written since
RESET (47_host_bus.md R99); between two instances as for `hostInByte` (log 19). -/
def hostOutByte (s : State) (a : Nat) : Byte :=
  (readByte s.outRam (a - Config.outBase)).getD (Config.freeByte s.draws a)

/-- Use up one key of the free values (log 6). -/
def tick (s : State) : State := { s with draws := s.draws + 1 }

/-- Record the response to a HOST access (log 5). -/
def respond (r : BusResponse) (s : State) : State := { s with response := r }

/-- Record what a unit run on its own answers (log 4). -/
def setUnit (u : UnitResult) (s : State) : State := { s with unitOut := some u }

/-- Replace IN_RAM. -/
def setInRam (m : Memory) (s : State) : State := { s with inRam := m }

/-- Replace OUT_RAM. -/
def setOutRam (m : Memory) (s : State) : State := { s with outRam := m }

/-- IN_LEN <- d (47_host_bus.md R106). -/
def setInLen (d : Word) (s : State) : State := { s with inLen := d }

/-- Replace the transitions to come. -/
def setInputs (es : List Input) (s : State) : State := { s with inputs := es }

/-- Replace one PAL entry (42_palette_parse.md R83). -/
def setPal (i : Fin 256) (e : PalEntry) (s : State) : State := { s with pal := s.pal.set i.val e i.isLt }

/-- `raise BusError(cause)`: the response alone; no state of the block changes, and a read returns 0 (60_exceptions.md R114). -/
def busError (dir : Dir) (cause : BusCause) (s : State) : State :=
  match dir with
  | .rd => respond (.readError cause 0#32) s
  | .wr => respond (.writeError cause) s

/-- A HOST access of a memory: the checks of 20_memory.md R40, then the access itself. -/
def checkedAccess (r : Region) (dir : Dir) (n : Width) (a : Offset) (s : State)
    (access : State → Host.Outcome State Fault Refusal) : Host.Outcome State Fault Refusal :=
  match busCheck n a with
  | some cause => .next (busError dir cause s)
  | none => if regionOf n a = some r then access s else .refused .illFormed

/-- `raise TruncatedInput(required, actual)`: how the block takes its one error (60_exceptions.md R112, R119). The required
length is the constant ERR_REQUIRED; nothing else is saved and control goes nowhere. -/
def raiseTruncatedInput (actual : Word) (s : State) : State :=
  { s with err := true, errcode := 1#4, errActual := actual }

/-- The length check of DECODE: the decode fails exactly when IN_LEN < 32768 (40_decode_command.md R67). -/
def tooShort (s : State) : Bool := decide (s.inLen.toNat < Config.inSize)

/-- The DECODE command (40_decode_command.md R66). -/
def issueDecode (s : State) : State :=
  if s.busy then s
  else if tooShort s then raiseTruncatedInput s.inLen (clearRecord s)
  else startEngine (clearRecord s)

/-- What a CTRL write issues: DECODE or nothing (47_host_bus.md R102). -/
def issueCommand (d : Word) (s : State) : State := if startBit d then issueDecode s else s

/-- The 32-bit image of a register (10_state.md R19 to R25). -/
def regValue (r : Reg) (s : State) : Word :=
  match r with
  | .ctrl => 0#32
  | .status => statusWord s
  | .inLen => s.inLen
  | .errRequired => Config.errRequired
  | .errActual => s.errActual

/-- What a write does to a register: CTRL issues a command, IN_LEN stores, the others ignore it (10_state.md R19 to R25). -/
def regWrite (r : Reg) (d : Word) (s : State) : State :=
  match r with
  | .ctrl => issueCommand d s
  | .status => s
  | .inLen => setInLen d s
  | .errRequired => s
  | .errActual => s

/-- A 4-byte read of a register (47_host_bus.md R101 to R109). -/
def readRegister (r : Reg) (s : State) : Host.Outcome State Fault Refusal :=
  .next (respond (.readOk (regValue r s)) s)

/-- A 4-byte write of a register (47_host_bus.md R102 to R110). -/
def writeRegister (r : Reg) (d : Word) (s : State) : Host.Outcome State Fault Refusal :=
  .next (respond .writeOk (regWrite r d s))

/-- PALETTE_WORD_PARSE (42_palette_parse.md R82). -/
def parseEntry (lo hi : Byte) : PalEntry :=
  ⟨wordRed (colourWord lo hi), wordGreen (colourWord lo hi), wordBlue (colourWord lo hi)⟩

/-- PALETTE_LOOKUP (44_palette_lookup.md R89). -/
def lookup (s : State) (psel idx : Nibble) : PalEntry := s.pal[palIndex psel idx]

/-- RGBA_PACK: the four bytes of pixel (x, y) (46_rgba_packer.md R94). -/
def packPixel (y x : Nat) (e : PalEntry) (s : State) : State :=
  setOutRam (storeBytes s.outRam (outAddr y x) (pixelBytes e.r4 e.g4 e.b4)) s

/-- An IN_RAM byte read by an ENGINE step: ModelFault(UNWRITTEN_INPUT) where its mark is clear (10_state.md R31). -/
def engineRead (s : State) (a : Nat) (use : Byte → Host.Outcome State Fault Refusal) : Host.Outcome State Fault Refusal :=
  match readByte s.inRam a with
  | some b => use b
  | none => .fault .unwrittenInput

/-- A palette entry whose 12 bits nothing fixes (10_state.md R32; log 7). -/
def freeEntry (draw i : Nat) : PalEntry :=
  ⟨(Config.freePal draw i).extractLsb' 8 4, (Config.freePal draw i).extractLsb' 4 4, (Config.freePal draw i).extractLsb' 0 4⟩

/-- RESET as a transition (70_reset_and_hazards.md R128, R129): the values of 10_state.md R32, with PAL a free value; what the
outside world will do next is no state of the block and stays (log 1, log 7). -/
def applyReset (s : State) : State :=
  { State.reset with
    pal := Vector.ofFn fun i : Fin 256 => freeEntry s.draws i.val
    inputs := s.inputs
    draws := s.draws + 1 }

end Sys2Proof.Machine
end

