-- ==== Sys2Proof/Machine/Bus.lean ====
section
/-! DEFINITION. The HOST bus operations (47_host_bus.md R97 to R111). -/

namespace Sys2Proof.Machine

/-- IN_RD (47_host_bus.md R97): allowed while BUSY = 1. -/
def execInRd (n : Width) (a : Offset) (s : State) : Host.Outcome State Fault Refusal :=
  checkedAccess .inRam .rd n a s fun s => .next (respond (.readOk (memRead (hostInByte s) a.toNat (nBytes n))) s)

/-- IN_WR (47_host_bus.md R98): ModelFault(HOST_WRITE_WHILE_BUSY) while BUSY = 1. -/
def execInWr (n : Width) (a : Offset) (v : Word) (s : State) : Host.Outcome State Fault Refusal :=
  checkedAccess .inRam .wr n a s fun s =>
    if s.busy then .fault .hostWriteWhileBusy
    else .next (respond .writeOk (setInRam (memWrite s.inRam a.toNat (nBytes n) v) s))

/-- OUT_RD (47_host_bus.md R99): free values while BUSY = 1, fresh on every read (70_reset_and_hazards.md R132). -/
def execOutRd (n : Width) (a : Offset) (s : State) : Host.Outcome State Fault Refusal :=
  checkedAccess .outRam .rd n a s fun s =>
    if s.busy then .next (tick (respond (.readOk (memRead (Config.freeByte s.draws) a.toNat (nBytes n))) s))
    else .next (respond (.readOk (memRead (hostOutByte s) a.toNat (nBytes n))) s)

/-- OUT_WR (47_host_bus.md R100): ModelFault(HOST_WRITE_WHILE_BUSY) while BUSY = 1. -/
def execOutWr (n : Width) (a : Offset) (v : Word) (s : State) : Host.Outcome State Fault Refusal :=
  checkedAccess .outRam .wr n a s fun s =>
    if s.busy then .fault .hostWriteWhileBusy
    else .next (respond .writeOk (setOutRam (memWrite s.outRam (a.toNat - Config.outBase) (nBytes n) v) s))

/-- CTRL_RD (47_host_bus.md R101). -/
def execCtrlRd (s : State) : Host.Outcome State Fault Refusal := readRegister .ctrl s

/-- CTRL_WR (47_host_bus.md R102). -/
def execCtrlWr (d : Word) (s : State) : Host.Outcome State Fault Refusal := writeRegister .ctrl d s

/-- STATUS_RD (47_host_bus.md R103). -/
def execStatusRd (s : State) : Host.Outcome State Fault Refusal := readRegister .status s

/-- STATUS_WR (47_host_bus.md R104). -/
def execStatusWr (d : Word) (s : State) : Host.Outcome State Fault Refusal := writeRegister .status d s

/-- IN_LEN_RD (47_host_bus.md R105). -/
def execInLenRd (s : State) : Host.Outcome State Fault Refusal := readRegister .inLen s

/-- IN_LEN_WR (47_host_bus.md R106). -/
def execInLenWr (d : Word) (s : State) : Host.Outcome State Fault Refusal := writeRegister .inLen d s

/-- ERR_REQUIRED_RD (47_host_bus.md R107). -/
def execErrRequiredRd (s : State) : Host.Outcome State Fault Refusal := readRegister .errRequired s

/-- ERR_REQUIRED_WR (47_host_bus.md R108). -/
def execErrRequiredWr (d : Word) (s : State) : Host.Outcome State Fault Refusal := writeRegister .errRequired d s

/-- ERR_ACTUAL_RD (47_host_bus.md R109). -/
def execErrActualRd (s : State) : Host.Outcome State Fault Refusal := readRegister .errActual s

/-- ERR_ACTUAL_WR (47_host_bus.md R110). -/
def execErrActualWr (d : Word) (s : State) : Host.Outcome State Fault Refusal := writeRegister .errActual d s

/-- BUS_FAULT (47_host_bus.md R111): the first cause that applies. -/
def execBusFault (dir : Dir) (n : Width) (a : Offset) (s : State) : Host.Outcome State Fault Refusal :=
  match busCheck n a with
  | some cause => .next (busError dir cause s)
  | none => .refused .illFormed

end Sys2Proof.Machine
end

