-- ==== Sys2Proof/Machine/Command.lean ====
section
/-! DEFINITION. The commands a CTRL write issues (40_decode_command.md R66 to R68). -/

namespace Sys2Proof.Machine

/-- DECODE (40_decode_command.md R66). -/
def execDecodeCmd (s : State) : Host.Outcome State Fault Refusal := .next (issueDecode s)

/-- CTRL_NOP (40_decode_command.md R68). -/
def execCtrlNop (s : State) : Host.Outcome State Fault Refusal := .next s

end Sys2Proof.Machine
end

