-- ==== Sys2Proof/Machine/Datapath.lean ====
section
/-! DEFINITION. The datapath functions run on their own (30_encoding.md R61; log 3, log 4): R82, R85, R87, R89, R91, R94. -/

namespace Sys2Proof.Machine

/-- PALETTE_WORD_PARSE (42_palette_parse.md R82). -/
def execPaletteWordParse (lo hi : Byte) (s : State) : Host.Outcome State Fault Refusal :=
  .next (setUnit (.entry (parseEntry lo hi)) s)

/-- SCB_SELECT (43_scanline_unpack.md R85). -/
def execScbSelect (scb : Byte) (s : State) : Host.Outcome State Fault Refusal :=
  .next (setUnit (.palette (loNibble scb)) s)

/-- PIXEL_SPLIT (43_scanline_unpack.md R87). -/
def execPixelSplit (b : Byte) (s : State) : Host.Outcome State Fault Refusal :=
  .next (setUnit (.indices (hiNibble b) (loNibble b)) s)

/-- PALETTE_LOOKUP (44_palette_lookup.md R89). -/
def execPaletteLookup (psel idx : Nibble) (s : State) : Host.Outcome State Fault Refusal :=
  .next (setUnit (.entry (lookup s psel idx)) s)

/-- CHANNEL_EXPAND (45_channel_expander.md R91). -/
def execChannelExpand (v : Nibble) (s : State) : Host.Outcome State Fault Refusal :=
  .next (setUnit (.channel (expand v)) s)

/-- RGBA_PACK (46_rgba_packer.md R94): y in 0..199, x in 0..319. -/
def execRgbaPack (y : BitVec 8) (x : BitVec 9) (r4 g4 b4 : Nibble) (s : State) : Host.Outcome State Fault Refusal :=
  if y.toNat < Config.rows ∧ x.toNat < Config.width then .next (packPixel y.toNat x.toNat ⟨r4, g4, b4⟩ s)
  else .refused .illFormed

end Sys2Proof.Machine
end

