-- ==== Sys2Proof/Machine/Engine.lean ====
section
/-! DEFINITION. The ENGINE steps (30_encoding.md R59): 40_decode_command.md R69, 42_palette_parse.md R83,
43_scanline_unpack.md R86, 46_rgba_packer.md R95. -/

namespace Sys2Proof.Machine

/-- SEQ_IDLE (40_decode_command.md R69): no step is enabled; nothing is read or written. -/
def execSeqIdle (s : State) : Host.Outcome State Fault Refusal := .next s

/-- PIDX and PHASE after one palette entry (42_palette_parse.md R83). -/
def advancePidx (s : State) : State :=
  if s.pidx = 255#8 then { s with pidx := 0#8, phase := .rowStart } else { s with pidx := s.pidx + 1#8 }

/-- SEQ_PAL_LOAD (42_palette_parse.md R83). -/
def execSeqPalLoad (s : State) : Host.Outcome State Fault Refusal :=
  engineRead s (palAddr (pidxPalette s.pidx) (pidxColour s.pidx)) fun lo =>
    engineRead s (palAddr (pidxPalette s.pidx) (pidxColour s.pidx) + 1) fun hi =>
      .next (advancePidx (setPal (palIndex (pidxPalette s.pidx) (pidxColour s.pidx)) (parseEntry lo hi) s))

/-- SEQ_ROW_START (43_scanline_unpack.md R86). -/
def execSeqRowStart (s : State) : Host.Outcome State Fault Refusal :=
  engineRead s (scbAddr s.row.toNat) fun scb => .next { s with psel := loNibble scb, phase := .pixelPair }

/-- COL, ROW, PHASE and, after the last byte, BUSY and DONE (46_rgba_packer.md R95). -/
def advancePosition (s : State) : State :=
  if s.col.toNat < 159 then { s with col := s.col + 1#8 }
  else if s.row.toNat < 199 then { s with col := 0#8, row := s.row + 1#8, phase := .rowStart }
  else finishDecode { s with col := 0#8 }

/-- Both pixels of the PixelPlane byte b at (ROW, COL) (46_rgba_packer.md R95). -/
def packPair (b : Byte) (s : State) : State :=
  packPixel s.row.toNat (2 * s.col.toNat + 1) (lookup s s.psel (loNibble b))
    (packPixel s.row.toNat (2 * s.col.toNat) (lookup s s.psel (hiNibble b)) s)

/-- SEQ_PIXEL_PAIR (46_rgba_packer.md R95). -/
def execSeqPixelPair (s : State) : Host.Outcome State Fault Refusal :=
  engineRead s (pixAddr s.row.toNat s.col.toNat) fun b => .next (advancePosition (packPair b s))

end Sys2Proof.Machine
end

