-- ==== Sys2Proof/Machine/Dispatch.lean ====
section
/-! DEFINITION. One arm per operation of 30_encoding.md R61. -/

namespace Sys2Proof.Machine

def exec (i : Instr) (s : State) : Host.Outcome State Fault Refusal :=
  match i with
  | .seqIdle => Sys2Proof.Machine.execSeqIdle s
  | .seqPalLoad => Sys2Proof.Machine.execSeqPalLoad s
  | .seqRowStart => Sys2Proof.Machine.execSeqRowStart s
  | .seqPixelPair => Sys2Proof.Machine.execSeqPixelPair s
  | .decodeCmd => Sys2Proof.Machine.execDecodeCmd s
  | .ctrlNop => Sys2Proof.Machine.execCtrlNop s
  | .inRd n a => Sys2Proof.Machine.execInRd n a s
  | .inWr n a v => Sys2Proof.Machine.execInWr n a v s
  | .outRd n a => Sys2Proof.Machine.execOutRd n a s
  | .outWr n a v => Sys2Proof.Machine.execOutWr n a v s
  | .ctrlRd => Sys2Proof.Machine.execCtrlRd s
  | .ctrlWr d => Sys2Proof.Machine.execCtrlWr d s
  | .statusRd => Sys2Proof.Machine.execStatusRd s
  | .statusWr d => Sys2Proof.Machine.execStatusWr d s
  | .inLenRd => Sys2Proof.Machine.execInLenRd s
  | .inLenWr d => Sys2Proof.Machine.execInLenWr d s
  | .errRequiredRd => Sys2Proof.Machine.execErrRequiredRd s
  | .errRequiredWr d => Sys2Proof.Machine.execErrRequiredWr d s
  | .errActualRd => Sys2Proof.Machine.execErrActualRd s
  | .errActualWr d => Sys2Proof.Machine.execErrActualWr d s
  | .busFault dir n a _ => Sys2Proof.Machine.execBusFault dir n a s
  | .paletteWordParse lo hi => Sys2Proof.Machine.execPaletteWordParse lo hi s
  | .scbSelect scb => Sys2Proof.Machine.execScbSelect scb s
  | .pixelSplit b => Sys2Proof.Machine.execPixelSplit b s
  | .paletteLookup psel idx => Sys2Proof.Machine.execPaletteLookup psel idx s
  | .channelExpand v => Sys2Proof.Machine.execChannelExpand v s
  | .rgbaPack y x r4 g4 b4 => Sys2Proof.Machine.execRgbaPack y x r4 g4 b4 s

end Sys2Proof.Machine
end

