-- ==== Sys2Proof/Machine/Fetch.lean ====
section
/-! DEFINITION. Which transition comes next (10_state.md R14; log 1): the head of `inputs`, and the ENGINE when the list is
empty; and how a bare table word is placed there. -/

namespace Sys2Proof.Machine

/-- The value of PHASE (30_encoding.md R59). -/
def phaseCode : Phase → Word
  | .idle => 0#32
  | .palLoad => 1#32
  | .rowStart => 2#32
  | .pixelPair => 3#32

/-- The PHASE of a value (30_encoding.md R59). -/
def phaseOfCode (w : Word) : Phase :=
  if w = 0#32 then .idle else if w = 1#32 then .palLoad else if w = 2#32 then .rowStart else .pixelPair

/-- Operations that are reads or no transition at all: they leave the key of the free values as it is, so that repeated
reads with no other transition between them agree (20_memory.md R42; log 6). -/
def keepsDraws : Instr → Bool
  | .seqIdle => true
  | .inRd _ _ => true
  | .outRd _ _ => true
  | .ctrlRd => true
  | .statusRd => true
  | .inLenRd => true
  | .errRequiredRd => true
  | .errActualRd => true
  | .paletteWordParse _ _ => true
  | .scbSelect _ => true
  | .pixelSplit _ => true
  | .paletteLookup _ _ => true
  | .channelExpand _ => true
  | .seqPalLoad => false
  | .seqRowStart => false
  | .seqPixelPair => false
  | .decodeCmd => false
  | .ctrlNop => false
  | .inWr _ _ _ => false
  | .outWr _ _ _ => false
  | .ctrlWr _ => false
  | .statusWr _ => false
  | .inLenWr _ => false
  | .errRequiredWr _ => false
  | .errActualWr _ => false
  | .busFault _ _ _ _ => false
  | .rgbaPack _ _ _ _ _ => false

/-- Decode an operation and use up a key of the free values unless it is a read. -/
def issue (op : OpWord) (s : State) : Fetched :=
  match decode op with
  | .ok i => .run i (if keepsDraws i then s else tick s)
  | .error e => .bad e

/-- The ENGINE's next step: dispatched on PHASE, taken only while BUSY = 1 (10_state.md R14, 30_encoding.md R59; log 16). -/
def engineWord (s : State) : OpWord := ⟨.seqPhase, if s.busy then phaseCode s.phase else 0#32, 0#32⟩

/-- A command or datapath format: what may be run on its own (log 3). -/
def isUnitFormat : Format → Bool
  | .seqPhase => false
  | .busTxn => false
  | .ctrlWord => true
  | .colourWord => true
  | .scbByte => true
  | .pixelByte => true
  | .rgbaPixel => true
  | .palSelect => true
  | .channel => true

/-- The next transition (10_state.md R14; log 1). -/
def fetch (s : State) : Fetched :=
  match s.inputs with
  | [] => issue (engineWord s) s
  | .engine :: es => issue (engineWord s) (setInputs es s)
  | .bus key data :: es => issue ⟨.busTxn, key, data⟩ (setInputs es s)
  | .reset :: es => .reset (setInputs es s)
  | .unit op :: es => if isUnitFormat op.format then issue op (setInputs es s) else .bad .notAUnit

/-- Place an encoded operation so that it is the next to run (log 15): an ENGINE step in PHASE with BUSY set as the step
needs it, a HOST access or a unit at the head of `inputs`. -/
def present (op : OpWord) (s : State) : State :=
  match op.format with
  | .seqPhase =>
    { s with phase := phaseOfCode op.word, busy := decide (op.word ≠ 0#32), inputs := .engine :: s.inputs }
  | .busTxn => setInputs (.bus op.word op.data :: s.inputs) s
  | _ => setInputs (.unit op :: s.inputs) s

end Sys2Proof.Machine
end

