-- ==== Sys2Proof/Machine/Step.lean ====
section
/-! DEFINITION. One transition of the system (10_state.md R14). -/

namespace Sys2Proof.Machine

/-- One transition: one HOST access, one ENGINE step or a RESET (10_state.md R14). -/
def step (s : State) : Host.Outcome State Fault Refusal :=
  match fetch s with
  | .run i t => exec i t
  | .reset t => .next (applyReset t)
  | .bad e => .refused (.undecodable e)

/-- The state with a bare table word placed as the next operation (log 10, log 15). -/
def State.withFetchWord (s : State) (nbits w : Nat) : State := present (tableOpWord nbits w) s

end Sys2Proof.Machine
end

