-- ==== Sys2Proof/Machine/Pseudo.lean ====
section
/-! DEFINITION. The HOST-program notation (30_encoding.md R64) and the HOST's duties before a decode (70_reset_and_hazards.md
R130), as lists of HOST accesses. -/

namespace Sys2Proof.Machine

/-- `RD8/16/32 a` (30_encoding.md R64). -/
def hostRead (n : Width) (a : Offset) : Input := .bus (txnKey .rd n a) 0#32

/-- `WR8/16/32 a, v` (30_encoding.md R64). -/
def hostWrite (n : Width) (a : Offset) (v : Word) : Input := .bus (txnKey .wr n a) v

/-- `SETLEN v` (30_encoding.md R64). -/
def pseudoSetLen (v : Word) : List Input := [hostWrite .four 0x08008#20 v]

/-- `DECODE` (30_encoding.md R64). -/
def pseudoDecode : List Input := [hostWrite .four 0x08000#20 1#32]

/-- `FILL a, count, b`: count/4 writes of b * 0x01010101 (30_encoding.md R64). -/
def pseudoFill (a count : Nat) (b : Byte) : List Input :=
  (List.range (count / 4)).map fun k =>
    hostWrite .four (BitVec.ofNat 20 (a + 4 * k)) (BitVec.ofNat 32 (b.toNat * 0x01010101))

/-- One iteration of `WAIT`: a read of STATUS (30_encoding.md R64). -/
def pseudoPoll : Input := hostRead .four 0x08004#20

/-- `WAIT` goes on exactly when the value read has BUSY = 1 (30_encoding.md R64). -/
def waitAgain : BusResponse → Bool
  | .readOk v => v.getLsbD 0
  | .none => false
  | .writeOk => false
  | .readError _ _ => false
  | .writeError _ => false

/-- The bytes of an input one by one from offset `a` of IN_RAM. -/
def loadBytes : Nat → List Byte → List Input
  | _, [] => []
  | a, b :: bs => hostWrite .one (BitVec.ofNat 20 a) (b.setWidth 32) :: loadBytes (a + 1) bs

/-- The HOST presents an input: its first min(length, 32768) bytes to IN_RAM, min(length, 0xFFFFFFFF) to IN_LEN
(10_state.md R23, R29; 70_reset_and_hazards.md R130 steps 1 and 2). -/
def presentInput (raw : List Byte) : List Input :=
  loadBytes 0 (raw.take Config.inSize) ++ pseudoSetLen (BitVec.ofNat 32 (min raw.length 0xFFFFFFFF))

end Sys2Proof.Machine
end

