-- ==== Sys2Proof/Machine/Reference.lean ====
section
/-! DEFINITION. The source's decode function (40_decode_command.md R65). -/

namespace Sys2Proof.Machine

/-- The bytes of a memory, for a function that reads written bytes only. -/
def bytesOf (m : Memory) (i : Nat) : Byte := (readByte m i).getD 0#8

/-- The pixel index of column x of scanline y: high nibble = left pixel (40_decode_command.md R65). -/
def refIndex (inp : Nat → Byte) (y x : Nat) : Nat :=
  if x % 2 = 0 then (inp (160 * y + x / 2)).toNat / 16 else (inp (160 * y + x / 2)).toNat % 16

/-- The active palette of scanline y (40_decode_command.md R65). -/
def refPalette (inp : Nat → Byte) (y : Nat) : Nat := (inp (32000 + y)).toNat % 16

/-- The colour word of palette p, colour i (40_decode_command.md R65). -/
def refWord (inp : Nat → Byte) (p i : Nat) : Nat :=
  (inp (32256 + 32 * p + 2 * i)).toNat + 256 * (inp (32256 + 32 * p + 2 * i + 1)).toNat

/-- Channel 0 (red), 1 (green) or 2 (blue) of a colour word (40_decode_command.md R65). -/
def refChannel (w ch : Nat) : Nat := w / 2 ^ (8 - 4 * ch) % 16

/-- DecodeRef: byte ch of output pixel (x, y) (40_decode_command.md R65), on naturals. -/
def decodeRefPixel (inp : Nat → Byte) (y x ch : Nat) : Byte :=
  if ch < 3 then
    BitVec.ofNat 8 (17 * refChannel (refWord inp (refPalette inp y) (refIndex inp y x)) ch)
  else 255#8

/-- DecodeRef by OUT_RAM offset j = 4 * (320 * y + x) + ch (40_decode_command.md R65). -/
def decodeRef (inp : Nat → Byte) (j : Nat) : Byte :=
  decodeRefPixel inp (j / 4 / 320) (j / 4 % 320) (j % 4)

end Sys2Proof.Machine
end

