-- ==== Sys2Proof/Machine/System.lean ====
section
/-! DEFINITION. Several instances in one system (00_scope.md R9, 20_memory.md R33, 60_exceptions.md R125): BLOCK_BASE and N_INST
are arguments, held as data (log 17). -/

namespace Sys2Proof.Machine

/-- One instance at its BLOCK_BASE (00_scope.md R9). -/
structure Placed where
  blockBase : Nat
  block : State
  deriving DecidableEq, Repr

/-- The system address is inside the instance's 20-bit window (20_memory.md R33). -/
def inWindow (p : Placed) (addr : Nat) : Bool :=
  decide (p.blockBase ≤ addr) && decide (addr < p.blockBase + Config.windowSize)

/-- N_INST ≥ 1, and no two windows overlap (00_scope.md R9, 60_exceptions.md R125). -/
def systemWf : List Placed → Bool
  | [] => false
  | [_] => true
  | p :: q :: ps =>
    ((q :: ps).all fun r =>
      decide (p.blockBase + Config.windowSize ≤ r.blockBase) || decide (r.blockBase + Config.windowSize ≤ p.blockBase))
    && systemWf (q :: ps)

/-- A HOST access at a system address becomes the next transition of the instance whose window holds the address, at the
offset from its BLOCK_BASE (20_memory.md R33). -/
def systemAccess (dir : Dir) (n : Width) (addr : Nat) (v : Word) : List Placed → List Placed
  | [] => []
  | p :: ps =>
    if inWindow p addr then
      { p with block := setInputs (.bus (txnKey dir n (BitVec.ofNat 20 (addr - p.blockBase))) v :: p.block.inputs) p.block } :: ps
    else p :: systemAccess dir n addr v ps

/-- One transition of instance k; the other instances do not move (60_exceptions.md R125). What a ModelFault of one instance does to
the run of the others the spec leaves open (R115 says "the run"); the model's choice is that it, like a refusal, ends the
run of the whole system (DESIGN CHOICE, log 20). -/
def systemStep : Nat → List Placed → Host.Outcome (List Placed) Fault Refusal
  | _, [] => .next []
  | 0, p :: ps =>
    match step p.block with
    | .next s => .next ({ p with block := s } :: ps)
    | .fault f => .fault f
    | .refused r => .refused r
  | k + 1, p :: ps =>
    match systemStep k ps with
    | .next qs => .next (p :: qs)
    | .fault f => .fault f
    | .refused r => .refused r

end Sys2Proof.Machine
end

