-- ==== Sys2Proof/Safety.lean ====
section
/-! DEFINITION. What claims are stated in: the invariants of the spec's whole-machine rules and the sets of operations they
speak of. -/

namespace Sys2Proof.Safety

open Sys2Proof.Machine

/-- 10_state.md R22: at most one of BUSY, DONE and ERR; ERRCODE as ERR, never 2..15 (R21); BUSY exactly when PHASE is not IDLE;
ERR_ACTUAL only with ERR. -/
structure StatusInv (s : State) : Prop where
  busyDone : ¬ (s.busy = true ∧ s.done = true)
  busyErr : ¬ (s.busy = true ∧ s.err = true)
  doneErr : ¬ (s.done = true ∧ s.err = true)
  errcode : s.errcode = if s.err = true then 1#4 else 0#4
  busyPhase : s.busy = true ↔ s.phase ≠ .idle
  errActual : s.errActual ≠ 0#32 → s.err = true

/-- 10_state.md R17, R27: the sequencer position never leaves its ranges, and the counters a phase does not use are 0. -/
structure SeqInv (s : State) : Prop where
  row : s.row.toNat < 200
  col : s.col.toNat < 160
  idle : s.phase = .idle → s.pidx = 0#8 ∧ s.row = 0#8 ∧ s.col = 0#8
  palLoad : s.phase = .palLoad → s.row = 0#8 ∧ s.col = 0#8
  rowStart : s.phase = .rowStart → s.pidx = 0#8 ∧ s.col = 0#8
  pixelPair : s.phase = .pixelPair → s.pidx = 0#8

/-- The memories keep their canonical form and their sizes (10_state.md R29, R30). -/
structure MemInv (s : State) : Prop where
  inWf : Memory.wf s.inRam = true
  outWf : Memory.wf s.outRam = true
  inSize : inBounds Config.inSize s.inRam = true
  outSize : inBounds Config.outSize s.outRam = true

/-- The invariant of the block between transitions. -/
structure BlockInv (s : State) : Prop where
  status : StatusInv s
  seq : SeqInv s
  mem : MemInv s

/-- Only transitions of 10_state.md R14 are to come: no unit is run on its own (log 3). -/
def onlyTransitions (s : State) : Prop := ∀ e ∈ s.inputs, ∀ op, e ≠ .unit op

/-- Every IN_RAM byte DecodeRef reads was written since RESET (40_decode_command.md R65, R70; 41_region_extraction.md R81). -/
def inputWritten (m : Memory) : Prop :=
  ∀ i, i < 32200 ∨ (32256 ≤ i ∧ i < 32768) → (readByte m i).isSome = true

/-- How many PAL entries the decode in progress has loaded (42_palette_parse.md R83, R84). -/
def loadedEntries (s : State) : Nat := if s.phase = .palLoad then s.pidx.toNat else 256

/-- How many OUT_RAM bytes the decode in progress has written: steps go in raster order, 8 bytes each (46_rgba_packer.md R95,
R96). -/
def writtenBytes (s : State) : Nat := 1280 * s.row.toNat + 8 * s.col.toNat

/-- While BUSY = 1 what is loaded and written so far is what IN_RAM says (44_palette_lookup.md R90, 40_decode_command.md R70). -/
structure DecodeSoFar (s : State) : Prop where
  pal : s.busy = true → ∀ p c : Nibble, 16 * p.toNat + c.toNat < loadedEntries s →
    lookup s p c = parseEntry (bytesOf s.inRam (palAddr p c)) (bytesOf s.inRam (palAddr p c + 1))
  psel : s.busy = true → s.phase = .pixelPair → s.psel = loNibble (bytesOf s.inRam (scbAddr s.row.toNat))
  out : s.busy = true → ∀ j, j < writtenBytes s → readByte s.outRam j = some (decodeRef (bytesOf s.inRam) j)

/-- OUT_RAM holds the decode result of IN_RAM (40_decode_command.md R70). -/
def outputCorrect (s : State) : Prop :=
  ∀ j, j < Config.outSize → readByte s.outRam j = some (decodeRef (bytesOf s.inRam) j)

/-- The ENGINE steps a decode still takes: 256 PAL_LOAD, then per scanline one ROW_START and 160 PIXEL_PAIR
(70_reset_and_hazards.md R137). -/
def remainingSteps (s : State) : Nat :=
  if s.busy then
    match s.phase with
    | .idle => 0
    | .palLoad => (256 - s.pidx.toNat) + 161 * 200
    | .rowStart => 161 * (200 - s.row.toNat)
    | .pixelPair => 161 * (200 - s.row.toNat) - 1 - s.col.toNat
  else 0

/-- The bus reads (20_memory.md R42). -/
def isRead : Instr → Bool
  | .inRd _ _ => true
  | .outRd _ _ => true
  | .ctrlRd => true
  | .statusRd => true
  | .inLenRd => true
  | .errRequiredRd => true
  | .errActualRd => true
  | _ => false

/-- The ENGINE steps (30_encoding.md R61). -/
def isEngineStep : Instr → Bool
  | .seqIdle => true
  | .seqPalLoad => true
  | .seqRowStart => true
  | .seqPixelPair => true
  | _ => false

/-- The writes that may issue DECODE, and DECODE itself (30_encoding.md R61). -/
def isCommand : Instr → Bool
  | .decodeCmd => true
  | .ctrlWr _ => true
  | _ => false

/-- Reading the register at offset a: the 4-byte read is operation i, which returns the value and changes nothing else; a read
of another width is BusError(WIDTH) (47_host_bus.md R101 to R109). -/
def ReadsRegister (a : Offset) (i : Instr) (value : State → Word) : Prop :=
  decode ⟨.busTxn, txnKey .rd .four a, 0#32⟩ = .ok i ∧
  (∀ s, exec i s = .next { s with response := .readOk (value s) }) ∧
  ∀ n, n ≠ .four → decode ⟨.busTxn, txnKey .rd n a, 0#32⟩ = .ok (.busFault .rd n a 0#32) ∧
    ∀ s, exec (.busFault .rd n a 0#32) s = .next { s with response := .readError .width 0#32 }

/-- Writing the register at offset a: the 4-byte write is operation i, which completes with the effect and changes nothing
else; a write of another width is BusError(WIDTH) (47_host_bus.md R102 to R110). -/
def WritesRegister (a : Offset) (i : Word → Instr) (effect : Word → State → State) : Prop :=
  (∀ d, decode ⟨.busTxn, txnKey .wr .four a, d⟩ = .ok (i d)) ∧
  (∀ d s, exec (i d) s = .next { effect d s with response := .writeOk }) ∧
  ∀ n d, n ≠ .four → dataOk .wr n d = true → decode ⟨.busTxn, txnKey .wr n a, d⟩ = .ok (.busFault .wr n a d) ∧
    ∀ s, exec (.busFault .wr n a d) s = .next { s with response := .writeError .width }

end Sys2Proof.Safety
end

