-- ==== Sys2Proof/Certificates/Slice0/Obligations.lean ====
section
/-! DEFINITION. The statements about the model. Each docstring names the rules of spec/ it formalises. -/

open Sys2Proof Sys2Proof.Machine Sys2Proof.Safety

/-! ### Encodings (30_encoding.md) -/

/-- Derived from R52 to R60: the decoder gives back every well-formed operation from its encoding, with every operand at every
value the encoding admits. -/
def Obligations.DecodeInvertsEncode : Prop :=
  ∀ i : Instr, WellFormed i = true → decode (encode i) = .ok i

/-- Derived from R52 to R60: whatever the decoder accepts is well-formed. -/
def Obligations.DecodedOperationIsWellFormed : Prop :=
  ∀ (op : OpWord) (i : Instr), decode op = .ok i → WellFormed i = true

/-- Derived from R58: no bit of a bus transaction is dropped: the operation decoded from a key and its data encodes to that key
and those data. -/
def Obligations.DecodedBusTransactionEncodesBack : Prop :=
  ∀ (key v : Word) (i : Instr), decode ⟨.busTxn, key, v⟩ = .ok i → encode i = ⟨.busTxn, key, v⟩

/-- Derived from R58 and R61: an access that fails the checks of R40 is BUS_FAULT whatever row its key matches; one that
passes is the operation of a row of the opcode table whose mask and match its key meets, and no other BUS_TXN row but BUS_FAULT
meets the key. -/
def Obligations.BusKeySelectsItsOnlyTableRow : Prop :=
  ∀ (dir : Dir) (n : Width) (a : Offset) (v : Word), dataOk dir n v = true →
    (busCheck n a ≠ none → decode ⟨.busTxn, txnKey dir n a, v⟩ = .ok (.busFault dir n a v)) ∧
    (busCheck n a = none → ∃ (i : Instr) (mask pattern : Word),
      decode ⟨.busTxn, txnKey dir n a, v⟩ = .ok i ∧ busRow i = some (mask, pattern) ∧ mask ≠ 0#32 ∧
      rowMatches mask pattern (txnKey dir n a) = true ∧
      ∀ (j : Instr) (mask' pattern' : Word), busRow j = some (mask', pattern') → mask' ≠ 0#32 →
        rowMatches mask' pattern' (txnKey dir n a) = true → mask' = mask ∧ pattern' = pattern)

/-- Derived from R55, R56, R57, R58, R59 and spec/opcode_table.json: words written out from the encodings decode to the
operations they stand for. Two clauses rest on the model's choices: the operand word of RGBA_PIXEL is log 11's, and the
rejection by name of WCODE 0b11, which R58 says never occurs, is log 12's. -/
def Obligations.WordsFromTheSpecDecode : Prop :=
  decode ⟨.seqPhase, 0b10#32, 0#32⟩ = .ok .seqRowStart ∧
  decode ⟨.ctrlWord, 0xFFFFFFFE#32, 0#32⟩ = .ok .ctrlNop ∧
  decode ⟨.ctrlWord, 0x00000003#32, 0#32⟩ = .ok .decodeCmd ∧
  decode ⟨.busTxn, 0x2FFFFC#32, 0#32⟩ = .ok (.busFault .rd .four 0xFFFFC#20 0#32) ∧
  decode ⟨.busTxn, 0x507E00#32, 0x0F00#32⟩ = .ok (.inWr .two 0x07E00#20 0x0F00#32) ∧
  decode ⟨.busTxn, 0x27E7FC#32, 0#32⟩ = .ok (.outRd .four 0x7E7FC#20) ∧
  decode ⟨.busTxn, 0x608000#32, 1#32⟩ = .ok (.ctrlWr 1#32) ∧
  decode ⟨.busTxn, 0x300000#32, 0#32⟩ = .error .noSuchWidth ∧
  decode ⟨.colourWord, 0x0F00#32, 0#32⟩ = .ok (.paletteWordParse 0x00#8 0x0F#8) ∧
  decode ⟨.rgbaPixel, 0xFF55AAFF#32, 255996#32⟩ = .ok (.rgbaPack 199#8 319#9 15#4 10#4 5#4)

/-! ### The step (10_state.md R14) -/

/-- Derived from R14: a step runs the operation its word decodes to. The word is the HOST access or the unit at the head of the
inputs, or the SEQ_PHASE word of PHASE (0 unless BUSY = 1) when it is the ENGINE's turn or no input is left. Around it a step
takes the input off the list and, unless the operation is a read or no transition, uses up one key of the free
values (the model's own, logs 1, 3 and 6). -/
def Obligations.StepRunsTheDecodedOperation : Prop :=
  ∀ (s : State) (i : Instr) (es : List Input),
    let after : State := { s with inputs := es, draws := if keepsDraws i then s.draws else s.draws + 1 }
    (∀ key v, s.inputs = .bus key v :: es → decode ⟨.busTxn, key, v⟩ = .ok i → step s = exec i after) ∧
    (∀ op, s.inputs = .unit op :: es → op.format ≠ .seqPhase → op.format ≠ .busTxn → decode op = .ok i →
      step s = exec i after) ∧
    (s.inputs = .engine :: es ∨ (s.inputs = [] ∧ es = []) →
      decode ⟨.seqPhase, if s.busy then phaseCode s.phase else 0#32, 0#32⟩ = .ok i → step s = exec i after)

/-- R59 with R14: a busy ENGINE's step is the one PHASE selects; all four values are used. The step uses up one key of the free
values unless it is SEQ_IDLE (the model's own, log 6). -/
def Obligations.PhaseSelectsTheEngineStep : Prop :=
  (∀ (s : State) (es : List Input), s.inputs = .engine :: es → s.busy = true →
    step s = match s.phase with
      | .idle => exec .seqIdle { s with inputs := es }
      | .palLoad => exec .seqPalLoad { s with inputs := es, draws := s.draws + 1 }
      | .rowStart => exec .seqRowStart { s with inputs := es, draws := s.draws + 1 }
      | .pixelPair => exec .seqPixelPair { s with inputs := es, draws := s.draws + 1 }) ∧
  decode ⟨.seqPhase, 0b00#32, 0#32⟩ = .ok .seqIdle ∧ decode ⟨.seqPhase, 0b01#32, 0#32⟩ = .ok .seqPalLoad ∧
  decode ⟨.seqPhase, 0b10#32, 0#32⟩ = .ok .seqRowStart ∧ decode ⟨.seqPhase, 0b11#32, 0#32⟩ = .ok .seqPixelPair

/-- Derived from R69: SEQ_IDLE reads and writes nothing, and a block that is not busy and gets no HOST access or RESET stays as
it is. -/
def Obligations.IdleBlockStays : Prop :=
  (∀ s : State, exec .seqIdle s = .next s) ∧
  (∀ s : State, s.busy = false → s.inputs = [] → step s = .next s)

/-! ### Bus checks (20_memory.md, 47_host_bus.md R111) -/

/-- Derived from R33, R36, R37, R40: the checks of an access in order: all bytes inside one mapped region, else UNMAPPED; a width
the region accepts, else WIDTH; alignment, else MISALIGNED. -/
def Obligations.AccessChecksInOrder : Prop :=
  ∀ (n : Width) (a : Offset),
    let within (base size : Nat) : Prop := base ≤ a.toNat ∧ a.toNat + nBytes n ≤ base + size
    let mapped : Prop := within 0 32768 ∨ within 0x08000 20 ∨ within 0x40000 256000
    (¬ mapped → busCheck n a = some .unmapped) ∧
    (within 0x08000 20 → n ≠ .four → busCheck n a = some .width) ∧
    (mapped → (within 0x08000 20 → n = .four) → a.toNat % nBytes n ≠ 0 → busCheck n a = some .misaligned) ∧
    (mapped → (within 0x08000 20 → n = .four) → a.toNat % nBytes n = 0 → busCheck n a = none)

/-- R114 and R111: an access that fails the checks completes with the error and its cause in the response, a read with the
value 0, and changes no other state. -/
def Obligations.BusErrorChangesOnlyTheResponse : Prop :=
  ∀ (n : Width) (a : Offset) (cause : BusCause) (s : State), busCheck n a = some cause →
    exec (.busFault .rd n a 0#32) s = .next { s with response := .readError cause 0#32 } ∧
    (∀ v, exec (.busFault .wr n a v) s = .next { s with response := .writeError cause }) ∧
    (∀ dir v, dataOk dir n v = true → decode ⟨.busTxn, txnKey dir n a, v⟩ = .ok (.busFault dir n a v))

/-- Derived from R111: an aligned access whose first byte is in a mapped region has all its bytes in that region. -/
def Obligations.AlignedAccessStaysInOneRegion : Prop :=
  ∀ (n : Width) (a : Offset) (r : Region), a.toNat % nBytes n = 0 →
    regionBase r ≤ a.toNat → a.toNat < regionBase r + regionSize r → insideRegion r n a = true

/-! ### IN_RAM and OUT_RAM accesses (47_host_bus.md R97 to R100) -/

/-- R97: IN_RD returns n bytes of IN_RAM, little-endian, in any state; a byte not written since RESET reads as a free value;
nothing else changes; an access that fails the checks of R40 is a BusError. -/
def Obligations.InputReadReturnsTheBytes : Prop :=
  (∀ (n : Width) (a : Offset) (s : State) (cause : BusCause), busCheck n a = some cause →
    exec (.inRd n a) s = .next { s with response := .readError cause 0#32 }) ∧
  ∀ (n : Width) (a : Offset) (s : State), WellFormed (.inRd n a) = true →
    ∃ v : Word, exec (.inRd n a) s = .next { s with response := .readOk v } ∧ v.toNat < widthLimit n ∧
      ∀ k, k < nBytes n →
        v.extractLsb' (8 * k) 8 = (readByte s.inRam (a.toNat + k)).getD (Config.freeByte s.draws (a.toNat + k))

/-- Derived from R99, R132: OUT_RD while BUSY = 0 returns n bytes of OUT_RAM at a - 0x40000, little-endian; a byte not written
since RESET reads as a free value; while BUSY = 1 every byte is a free value whose key is used up (the key is the model's
own, log 6); nothing else changes; an access that fails the checks of R40 is a BusError. -/
def Obligations.OutputReadReturnsTheBytes : Prop :=
  (∀ (n : Width) (a : Offset) (s : State) (cause : BusCause), busCheck n a = some cause →
    exec (.outRd n a) s = .next { s with response := .readError cause 0#32 }) ∧
  ∀ (n : Width) (a : Offset) (s : State), WellFormed (.outRd n a) = true →
    (s.busy = false → ∃ v : Word, exec (.outRd n a) s = .next { s with response := .readOk v } ∧
      v.toNat < widthLimit n ∧ ∀ k, k < nBytes n → v.extractLsb' (8 * k) 8 =
        (readByte s.outRam (a.toNat + k - 0x40000)).getD (Config.freeByte s.draws (a.toNat + k))) ∧
    (s.busy = true → ∃ v : Word,
      exec (.outRd n a) s = .next { s with response := .readOk v, draws := s.draws + 1 } ∧
      v.toNat < widthLimit n ∧
      ∀ k, k < nBytes n → v.extractLsb' (8 * k) 8 = Config.freeByte s.draws (a.toNat + k))

/-- R98: IN_WR while BUSY = 0 stores byte k of the data at offset a + k (which marks it written) and no other byte, and changes
nothing else but the response; while BUSY = 1 it is ModelFault(HOST_WRITE_WHILE_BUSY); an access that fails the checks of R40 is
a BusError. -/
def Obligations.InputWriteStoresTheBytes : Prop :=
  (∀ (n : Width) (a : Offset) (v : Word) (s : State) (cause : BusCause), busCheck n a = some cause →
    exec (.inWr n a v) s = .next { s with response := .writeError cause }) ∧
  ∀ (n : Width) (a : Offset) (v : Word) (s : State), WellFormed (.inWr n a v) = true →
    (s.busy = false → ∃ m : Memory, exec (.inWr n a v) s = .next { s with inRam := m, response := .writeOk } ∧
      (∀ k, k < nBytes n → readByte m (a.toNat + k) = some (v.extractLsb' (8 * k) 8)) ∧
      (∀ b, b < a.toNat ∨ a.toNat + nBytes n ≤ b → readByte m b = readByte s.inRam b) ∧
      (Memory.wf s.inRam = true → Memory.wf m = true)) ∧
    (s.busy = true → exec (.inWr n a v) s = .fault .hostWriteWhileBusy)

/-- R100: OUT_WR while BUSY = 0 stores byte k of the data at OUT_RAM offset a - 0x40000 + k and no other byte, and changes nothing
else but the response; while BUSY = 1 it is ModelFault(HOST_WRITE_WHILE_BUSY); an access that fails the checks of R40 is a
BusError. -/
def Obligations.OutputWriteStoresTheBytes : Prop :=
  (∀ (n : Width) (a : Offset) (v : Word) (s : State) (cause : BusCause), busCheck n a = some cause →
    exec (.outWr n a v) s = .next { s with response := .writeError cause }) ∧
  ∀ (n : Width) (a : Offset) (v : Word) (s : State), WellFormed (.outWr n a v) = true →
    (s.busy = false → ∃ m : Memory, exec (.outWr n a v) s = .next { s with outRam := m, response := .writeOk } ∧
      (∀ k, k < nBytes n → readByte m (a.toNat - 0x40000 + k) = some (v.extractLsb' (8 * k) 8)) ∧
      (∀ b, b < a.toNat - 0x40000 ∨ a.toNat - 0x40000 + nBytes n ≤ b → readByte m b = readByte s.outRam b) ∧
      (Memory.wf s.outRam = true → Memory.wf m = true)) ∧
    (s.busy = true → exec (.outWr n a v) s = .fault .hostWriteWhileBusy)

/-- Derived from R39, R45: while BUSY = 0 a read of the same width and offset right after a write returns the value written, in
both memories. -/
def Obligations.ReadAfterWriteReturnsTheValue : Prop :=
  ∀ (n : Width) (a : Offset) (v : Word) (s : State), s.busy = false →
    (WellFormed (.inWr n a v) = true → ∃ t, exec (.inWr n a v) s = .next t ∧
      exec (.inRd n a) t = .next { t with response := .readOk v }) ∧
    (WellFormed (.outWr n a v) = true → ∃ t, exec (.outWr n a v) s = .next t ∧
      exec (.outRd n a) t = .next { t with response := .readOk v })

/-- Derived from R42: a read (of OUT_RAM only while BUSY = 0) changes no state of the block but the response, and a second read
with no transition between returns the same, written bytes or not. -/
def Obligations.RepeatedReadsAgree : Prop :=
  ∀ (s : State) (key : Word) (i : Instr) (es : List Input), decode ⟨.busTxn, key, 0#32⟩ = .ok i → isRead i = true →
    (s.busy = true → ∀ n a, i ≠ .outRd n a) → s.inputs = .bus key 0#32 :: .bus key 0#32 :: es →
    ∃ r : BusResponse, step s = .next { s with inputs := .bus key 0#32 :: es, response := r } ∧
      step { s with inputs := .bus key 0#32 :: es, response := r } = .next { s with inputs := es, response := r }

/-! ### Registers and commands (10_state.md, 47_host_bus.md R101 to R110, 40_decode_command.md) -/

/-- R101, R103, R105, R107, R109: the value each register read returns, in every state, with nothing else changed; any other
width is BusError(WIDTH). -/
def Obligations.RegisterReadsReturnTheirValue : Prop :=
  ReadsRegister 0x08000#20 .ctrlRd (fun _ => 0#32) ∧
  ReadsRegister 0x08004#20 .statusRd (fun s => BitVec.ofNat 32
    (s.busy.toNat + 2 * s.done.toNat + 4 * s.err.toNat + 16 * s.errcode.toNat)) ∧
  ReadsRegister 0x08008#20 .inLenRd (fun s => s.inLen) ∧
  ReadsRegister 0x0800C#20 .errRequiredRd (fun _ => 0x00008000#32) ∧
  ReadsRegister 0x08010#20 .errActualRd (fun s => s.errActual)

/-- R104, R108, R110: writes to STATUS, ERR_REQUIRED and ERR_ACTUAL complete and change nothing; any other width is
BusError(WIDTH). -/
def Obligations.ReadOnlyRegisterWritesAreIgnored : Prop :=
  WritesRegister 0x08004#20 .statusWr (fun _ s => s) ∧
  WritesRegister 0x0800C#20 .errRequiredWr (fun _ s => s) ∧
  WritesRegister 0x08010#20 .errActualWr (fun _ s => s)

/-- R106: IN_LEN_WR stores the value, in every state, and changes nothing else; any other width is BusError(WIDTH). -/
def Obligations.InputLengthWriteStores : Prop :=
  WritesRegister 0x08008#20 .inLenWr (fun d s => { s with inLen := d })

/-- R102: a CTRL write issues DECODE when bit 0 of its data is 1 and CTRL_NOP otherwise, and completes; any other width is
BusError(WIDTH). -/
def Obligations.ControlWriteIssuesTheCommand : Prop :=
  WritesRegister 0x08000#20 .ctrlWr (fun d s =>
    match exec (if d.getLsbD 0 then .decodeCmd else .ctrlNop) s with
    | .next t => t
    | .fault _ => s
    | .refused _ => s) ∧
  ∀ (d : Word) (s : State), ∃ t, exec (if d.getLsbD 0 then .decodeCmd else .ctrlNop) s = .next t

/-- R66, R112: DECODE while BUSY = 1 changes nothing; otherwise it clears DONE, ERR, ERRCODE and ERR_ACTUAL, and either fails with
TruncatedInput (ERR = 1, ERRCODE = 1, ERR_ACTUAL = IN_LEN) when IN_LEN < 32768, or sets BUSY = 1, PHASE = PAL_LOAD and PIDX = ROW =
COL = 0; nothing else changes. The required length is read from ERR_REQUIRED. Its word is any CTRL_WORD with bit 0 = 1. -/
def Obligations.DecodeCommandStartsOrFails : Prop :=
  (∀ s : State, s.busy = true → exec .decodeCmd s = .next s) ∧
  (∀ s : State, s.busy = false → s.inLen.toNat < 32768 → exec .decodeCmd s =
    .next { s with done := false, err := true, errcode := 1#4, errActual := s.inLen }) ∧
  (∀ s : State, s.busy = false → 32768 ≤ s.inLen.toNat → exec .decodeCmd s =
    .next { s with done := false, err := false, errcode := 0#4, errActual := 0#32, busy := true,
                   phase := .palLoad, pidx := 0#8, row := 0#8, col := 0#8 }) ∧
  (∀ s : State, exec .errRequiredRd s = .next { s with response := .readOk 32768#32 }) ∧
  (∀ d : Word, d.getLsbD 0 = true → decode ⟨.ctrlWord, d, 0#32⟩ = .ok .decodeCmd)

/-- R68: CTRL_NOP changes nothing; its word is any CTRL_WORD with bit 0 = 0. -/
def Obligations.ControlNopChangesNothing : Prop :=
  (∀ s : State, exec .ctrlNop s = .next s) ∧
  (∀ d : Word, d.getLsbD 0 = false → decode ⟨.ctrlWord, d, 0#32⟩ = .ok .ctrlNop) ∧
  (∀ (d : Word) (s : State), d.getLsbD 0 = false → exec (.ctrlWr d) s = .next { s with response := .writeOk })

/-! ### ENGINE steps (42_palette_parse.md, 43_scanline_unpack.md, 46_rgba_packer.md) -/

/-- R83: SEQ_PAL_LOAD reads the two bytes at 32256 + 2 * PIDX, writes PAL entry PIDX with their channels, advances PIDX or, at 255,
goes to ROW_START; no other PAL entry and no other state changes. A byte not written since RESET is
ModelFault(UNWRITTEN_INPUT). Its encoding is PHASE = 0b01. -/
def Obligations.PaletteLoadStep : Prop :=
  decode ⟨.seqPhase, 0b01#32, 0#32⟩ = .ok .seqPalLoad ∧
  (∀ (s : State) (lo hi : Byte), readByte s.inRam (32256 + 2 * s.pidx.toNat) = some lo →
    readByte s.inRam (32256 + 2 * s.pidx.toNat + 1) = some hi →
    ∃ pal : Vector PalEntry 256,
      exec .seqPalLoad s = .next { s with
        pal := pal
        pidx := if s.pidx = 255#8 then 0#8 else s.pidx + 1#8
        phase := if s.pidx = 255#8 then .rowStart else s.phase } ∧
      pal[s.pidx.toNat]? = some ⟨hi.extractLsb' 0 4, lo.extractLsb' 4 4, lo.extractLsb' 0 4⟩ ∧
      ∀ i : Nat, i ≠ s.pidx.toNat → pal[i]? = s.pal[i]?) ∧
  (∀ s : State, readByte s.inRam (32256 + 2 * s.pidx.toNat) = none ∨
    readByte s.inRam (32256 + 2 * s.pidx.toNat + 1) = none → exec .seqPalLoad s = .fault .unwrittenInput)

/-- R86: SEQ_ROW_START sets PSEL to the low nibble of the byte at 32000 + ROW and goes to PIXEL_PAIR; nothing else changes. A byte
not written since RESET is ModelFault(UNWRITTEN_INPUT). Its encoding is PHASE = 0b10. -/
def Obligations.RowStartStep : Prop :=
  decode ⟨.seqPhase, 0b10#32, 0#32⟩ = .ok .seqRowStart ∧
  (∀ (s : State) (b : Byte), readByte s.inRam (32000 + s.row.toNat) = some b →
    exec .seqRowStart s = .next { s with psel := b.extractLsb' 0 4, phase := .pixelPair }) ∧
  (∀ s : State, readByte s.inRam (32000 + s.row.toNat) = none → exec .seqRowStart s = .fault .unwrittenInput)

/-- R95: SEQ_PIXEL_PAIR reads the byte at 160 * ROW + COL, writes the eight OUT_RAM bytes of its two pixels from palette PSEL, high
nibble first, and no other byte; it advances COL, then ROW with PHASE = ROW_START, and after the last byte sets PHASE = IDLE, BUSY =
0, DONE = 1; nothing else changes. A byte not written since RESET is ModelFault(UNWRITTEN_INPUT). Its encoding is PHASE = 0b11. -/
def Obligations.PixelPairStep : Prop :=
  decode ⟨.seqPhase, 0b11#32, 0#32⟩ = .ok .seqPixelPair ∧
  (∀ (s : State) (b : Byte), readByte s.inRam (160 * s.row.toNat + s.col.toNat) = some b →
    ∃ m : Memory,
      exec .seqPixelPair s = .next { s with
        outRam := m
        col := if s.col.toNat < 159 then s.col + 1#8 else 0#8
        row := if s.col.toNat < 159 then s.row else if s.row.toNat < 199 then s.row + 1#8 else 0#8
        phase := if s.col.toNat < 159 then s.phase else if s.row.toNat < 199 then .rowStart else .idle
        busy := if s.col.toNat < 159 ∨ s.row.toNat < 199 then s.busy else false
        done := if s.col.toNat < 159 ∨ s.row.toNat < 199 then s.done else true } ∧
      (∀ (k : Nat) (e : PalEntry), k < 2 →
        s.pal[16 * s.psel.toNat + (if k = 0 then b.toNat / 16 else b.toNat % 16)]? = some e →
        readByte m (1280 * s.row.toNat + 8 * s.col.toNat + 4 * k) = some (BitVec.ofNat 8 (17 * e.r4.toNat)) ∧
        readByte m (1280 * s.row.toNat + 8 * s.col.toNat + 4 * k + 1) = some (BitVec.ofNat 8 (17 * e.g4.toNat)) ∧
        readByte m (1280 * s.row.toNat + 8 * s.col.toNat + 4 * k + 2) = some (BitVec.ofNat 8 (17 * e.b4.toNat)) ∧
        readByte m (1280 * s.row.toNat + 8 * s.col.toNat + 4 * k + 3) = some 0xFF#8) ∧
      (∀ j, j < 1280 * s.row.toNat + 8 * s.col.toNat ∨ 1280 * s.row.toNat + 8 * s.col.toNat + 8 ≤ j →
        readByte m j = readByte s.outRam j) ∧
      (Memory.wf s.outRam = true → Memory.wf m = true)) ∧
  (∀ s : State, readByte s.inRam (160 * s.row.toNat + s.col.toNat) = none →
    exec .seqPixelPair s = .fault .unwrittenInput)

/-! ### Datapath functions (R82, R85, R87, R89, R91, R92, R94) -/

/-- R82, R85, R87, R89, R91: the value of each combinational unit, as arithmetic on naturals; running a unit on its own (the
model's own, logs 3 and 4) records its answer and changes nothing else. Each unit's operands are those of its encoding. -/
def Obligations.DatapathUnitsAnswer : Prop :=
  (∀ lo hi : Byte, decode ⟨.colourWord, BitVec.ofNat 32 (lo.toNat + 256 * hi.toNat), 0#32⟩ = .ok (.paletteWordParse lo hi)) ∧
  (∀ scb : Byte, decode ⟨.scbByte, BitVec.ofNat 32 scb.toNat, 0#32⟩ = .ok (.scbSelect scb)) ∧
  (∀ b : Byte, decode ⟨.pixelByte, BitVec.ofNat 32 b.toNat, 0#32⟩ = .ok (.pixelSplit b)) ∧
  (∀ psel idx : Nibble,
    decode ⟨.palSelect, BitVec.ofNat 32 (16 * psel.toNat + idx.toNat), 0#32⟩ = .ok (.paletteLookup psel idx)) ∧
  (∀ v : Nibble, decode ⟨.channel, BitVec.ofNat 32 v.toNat, 0#32⟩ = .ok (.channelExpand v)) ∧
  ∀ s : State,
    (∀ lo hi : Byte, ∃ e : PalEntry, exec (.paletteWordParse lo hi) s = .next { s with unitOut := some (.entry e) } ∧
      e.r4.toNat = (lo.toNat + 256 * hi.toNat) / 256 % 16 ∧ e.g4.toNat = (lo.toNat + 256 * hi.toNat) / 16 % 16 ∧
      e.b4.toNat = (lo.toNat + 256 * hi.toNat) % 16) ∧
    (∀ scb : Byte, ∃ p : Nibble, exec (.scbSelect scb) s = .next { s with unitOut := some (.palette p) } ∧
      p.toNat = scb.toNat % 16) ∧
    (∀ b : Byte, ∃ hi lo : Nibble, exec (.pixelSplit b) s = .next { s with unitOut := some (.indices hi lo) } ∧
      hi.toNat = b.toNat / 16 ∧ lo.toNat = b.toNat % 16) ∧
    (∀ psel idx : Nibble, ∃ e : PalEntry, exec (.paletteLookup psel idx) s = .next { s with unitOut := some (.entry e) } ∧
      s.pal[16 * psel.toNat + idx.toNat]? = some e) ∧
    (∀ v : Nibble, ∃ b : Byte, exec (.channelExpand v) s = .next { s with unitOut := some (.channel b) } ∧
      b.toNat = 17 * v.toNat)

/-- R92: CHANNEL_EXPAND is bit replication: 17 * v has v in both nibbles; it is one-to-one, strictly increasing and steps by 17. -/
def Obligations.ChannelExpandReplicatesBits : Prop :=
  ∀ v w : Nibble, (expand v).toNat = 17 * v.toNat ∧ expand v = v ++ v ∧ hiNibble (expand v) = v ∧ loNibble (expand v) = v ∧
    expand v = (v.setWidth 8 <<< 4) ||| v.setWidth 8 ∧
    (expand v = expand w → v = w) ∧
    (v.toNat < w.toNat → (expand v).toNat < (expand w).toNat) ∧
    (w.toNat = v.toNat + 1 → (expand w).toNat = (expand v).toNat + 17)

/-- R94: RGBA_PACK writes the four bytes 17 * R4, 17 * G4, 17 * B4, 0xFF of pixel (x, y) at 4 * (320 * y + x) and no other byte, and
changes nothing else. -/
def Obligations.RgbaPackWritesOnePixel : Prop :=
  ∀ (y : BitVec 8) (x : BitVec 9) (r g b : Nibble) (s : State), y.toNat < 200 → x.toNat < 320 →
    ∃ m : Memory, exec (.rgbaPack y x r g b) s = .next { s with outRam := m } ∧
      readByte m (4 * (320 * y.toNat + x.toNat)) = some (BitVec.ofNat 8 (17 * r.toNat)) ∧
      readByte m (4 * (320 * y.toNat + x.toNat) + 1) = some (BitVec.ofNat 8 (17 * g.toNat)) ∧
      readByte m (4 * (320 * y.toNat + x.toNat) + 2) = some (BitVec.ofNat 8 (17 * b.toNat)) ∧
      readByte m (4 * (320 * y.toNat + x.toNat) + 3) = some 0xFF#8 ∧
      (∀ j, j < 4 * (320 * y.toNat + x.toNat) ∨ 4 * (320 * y.toNat + x.toNat) + 4 ≤ j →
        readByte m j = readByte s.outRam j) ∧
      (Memory.wf s.outRam = true → Memory.wf m = true)

/-! ### Address functions and the reference function (41_region_extraction.md, 40_decode_command.md R65) -/

/-- R80: PIX_ADDR is one-to-one onto [0, 32000); PAL_ADDR is one-to-one onto the even offsets of [32256, 32768) and with its + 1
bytes covers [32256, 32768); OUT_ADDR + j is one-to-one onto [0, 256000); the three input regions do not overlap. -/
def Obligations.AddressFunctionsAreOneToOne : Prop :=
  (∀ i, i < 32000 ↔ ∃ row col, row < 200 ∧ col < 160 ∧ pixAddr row col = i) ∧
  (∀ row col row' col', row < 200 → col < 160 → row' < 200 → col' < 160 → pixAddr row col = pixAddr row' col' →
    row = row' ∧ col = col') ∧
  (∀ i, (32256 ≤ i ∧ i < 32768 ∧ i % 2 = 0) ↔ ∃ p c, palAddr p c = i) ∧
  (∀ p c p' c', palAddr p c = palAddr p' c' → p = p' ∧ c = c') ∧
  (∀ i, (32256 ≤ i ∧ i < 32768) ↔ ∃ p c, palAddr p c = i ∨ palAddr p c + 1 = i) ∧
  (∀ row col r p c, row < 200 → col < 160 → r < 200 → pixAddr row col < scbAddr r ∧ scbAddr r < palAddr p c) ∧
  (∀ i, i < 256000 ↔ ∃ y x j, y < 200 ∧ x < 320 ∧ j < 4 ∧ outAddr y x + j = i) ∧
  (∀ y x j y' x' j', y < 200 → x < 320 → j < 4 → y' < 200 → x' < 320 → j' < 4 → outAddr y x + j = outAddr y' x' + j' →
    y = y' ∧ x = x' ∧ j = j')

/-- Derived from R65, R81: DecodeRef reads only the bytes [0, 32200) and [32256, 32768). -/
def Obligations.ReferenceReadsOnlyItsRegions : Prop :=
  ∀ f g : Nat → Byte, (∀ i, i < 32200 ∨ (32256 ≤ i ∧ i < 32768) → f i = g i) →
    ∀ j, j < 256000 → decodeRef f j = decodeRef g j

/-- Derived from R62: ScanlineControl bits 7:4 and colour word bits 15:12 (the odd PaletteTable bytes' high nibbles) never change
the result. -/
def Obligations.IgnoredBitsNeverChangeTheResult : Prop :=
  ∀ f g : Nat → Byte, (∀ i, i < 32000 → f i = g i) →
    (∀ i, 32000 ≤ i → i < 32256 → (f i).toNat % 16 = (g i).toNat % 16) →
    (∀ i, 32256 ≤ i → i < 32768 → i % 2 = 0 → f i = g i) →
    (∀ i, 32256 ≤ i → i < 32768 → i % 2 = 1 → (f i).toNat % 16 = (g i).toNat % 16) →
    ∀ j, j < 256000 → decodeRef f j = decodeRef g j

/-- R88: changing one ScanlineControl byte of scanline r changes only bytes of scanline r, none when the low nibble stays, and
none at all for r ≥ 200; the bytes of scanline r then hold the colours of the newly selected palette. -/
def Obligations.ScanlineControlChangesOnlyItsScanline : Prop :=
  ∀ (f : Nat → Byte) (r : Nat) (b : Byte), r < 256 →
    let g : Nat → Byte := fun i => if i = 32000 + r then b else f i
    (∀ j, j < 256000 → j < 1280 * r ∨ 1280 * r + 1280 ≤ j → decodeRef g j = decodeRef f j) ∧
    (200 ≤ r ∨ b.toNat % 16 = (f (32000 + r)).toNat % 16 → ∀ j, j < 256000 → decodeRef g j = decodeRef f j) ∧
    (r < 200 → ∀ x ch, x < 320 → ch < 3 → (decodeRef g (4 * (320 * r + x) + ch)).toNat =
      17 * refChannel (refWord f (b.toNat % 16) (refIndex f r x)) ch)

/-! ### Reset (10_state.md R32, 70_reset_and_hazards.md R128, R129) -/

/-- R128: RESET, in any state, sets STATUS, IN_LEN, ERR_ACTUAL, PHASE and the counters to their reset values and leaves no byte of
IN_RAM or OUT_RAM written; of PAL nothing is said, since it becomes unspecified. -/
def Obligations.ResetClearsTheBlock : Prop :=
  ∀ (s : State) (es : List Input), s.inputs = .reset :: es →
    ∃ t, step s = .next t ∧ t.busy = false ∧ t.done = false ∧ t.err = false ∧ t.errcode = 0#4 ∧ t.inLen = 0#32 ∧
      t.errActual = 0#32 ∧ t.phase = .idle ∧ t.pidx = 0#8 ∧ t.row = 0#8 ∧ t.col = 0#8 ∧ t.psel = 0#4 ∧
      (∀ a, readByte t.inRam a = none) ∧ (∀ a, readByte t.outRam a = none)

/-- Derived from R32: what the registers read right after reset, and the internal state then. PAL after reset is the model's
choice (log 7) and is not stated. -/
def Obligations.RegistersAfterReset : Prop :=
  exec .ctrlRd State.reset = .next { State.reset with response := .readOk 0x00000000#32 } ∧
  exec .statusRd State.reset = .next { State.reset with response := .readOk 0x00000000#32 } ∧
  exec .inLenRd State.reset = .next { State.reset with response := .readOk 0x00000000#32 } ∧
  exec .errRequiredRd State.reset = .next { State.reset with response := .readOk 0x00008000#32 } ∧
  exec .errActualRd State.reset = .next { State.reset with response := .readOk 0x00000000#32 } ∧
  State.reset.phase = .idle ∧ State.reset.pidx = 0#8 ∧ State.reset.row = 0#8 ∧ State.reset.col = 0#8 ∧
  State.reset.psel = 0#4 ∧ (∀ a, readByte State.reset.inRam a = none)

/-! ### Whole-machine rules -/

/-- The invariant of R22, R27 and the memories' canonical form holds after reset. -/
def Obligations.InvariantHoldsAtReset : Prop := BlockInv State.reset

/-- Derived from R17, R21, R22, R27, R29, R30: every step keeps the invariant: at most one of BUSY, DONE, ERR; ERRCODE as ERR; BUSY
exactly when PHASE is not IDLE; ERR_ACTUAL only with ERR; the counters in their ranges; the memories in canonical form and in
their sizes. -/
def Obligations.StepKeepsTheInvariant : Prop :=
  ∀ s t : State, BlockInv s → step s = .next t → BlockInv t

/-- Derived from R22, R103: STATUS reads one of four values in every state that meets the invariant. -/
def Obligations.StatusReadsOneOfFourValues : Prop :=
  ∀ s : State, BlockInv s → ∃ v : Word, exec .statusRd s = .next { s with response := .readOk v } ∧
    (v = 0x00000000#32 ∨ v = 0x00000001#32 ∨ v = 0x00000002#32 ∨ v = 0x00000014#32) ∧
    (v.getLsbD 0 = true ↔ s.phase ≠ .idle)

/-- Derived from R23, R25, R28, R29, R30, R43: which operations change which state: IN_RAM only an IN_WR while BUSY = 0; OUT_RAM only
an OUT_WR while BUSY = 0, SEQ_PIXEL_PAIR or the packer; IN_LEN only IN_LEN_WR; PAL only SEQ_PAL_LOAD; ERR_ACTUAL, ERR and ERRCODE
only DECODE and CTRL_WR; PSEL only SEQ_ROW_START. -/
def Obligations.EachStateHasItsOwnWriters : Prop :=
  ∀ (i : Instr) (s t : State), exec i s = .next t →
    (t.inRam ≠ s.inRam → s.busy = false ∧ ∃ n a v, i = .inWr n a v) ∧
    (t.outRam ≠ s.outRam → (s.busy = false ∧ ∃ n a v, i = .outWr n a v) ∨ i = .seqPixelPair ∨
      ∃ y x r g b, i = .rgbaPack y x r g b) ∧
    (t.inLen ≠ s.inLen → ∃ d, i = .inLenWr d) ∧
    (t.pal ≠ s.pal → i = .seqPalLoad) ∧
    (t.psel ≠ s.psel → i = .seqRowStart) ∧
    (t.errActual ≠ s.errActual ∨ t.err ≠ s.err ∨ t.errcode ≠ s.errcode → isCommand i = true) ∧
    (t.phase ≠ s.phase ∨ t.pidx ≠ s.pidx ∨ t.row ≠ s.row ∨ t.col ≠ s.col ∨ t.busy ≠ s.busy ∨ t.done ≠ s.done →
      isCommand i = true ∨ isEngineStep i = true) ∧
    t.inputs = s.inputs

/-- Derived from R115, R116: a run is faulted only by a HOST write of a memory while BUSY = 1, or by an ENGINE step one of whose own
input bytes was not written since RESET: the two of entry PIDX, the ScanlineControl byte of ROW, the PixelPlane byte of (ROW,
COL). SEQ_IDLE never faults. -/
def Obligations.OnlyTheTwoModelFaults : Prop :=
  ∀ (i : Instr) (s : State) (f : Fault), exec i s = .fault f →
    (f = .hostWriteWhileBusy ∧ s.busy = true ∧ ((∃ n a v, i = .inWr n a v) ∨ ∃ n a v, i = .outWr n a v)) ∨
    (f = .unwrittenInput ∧
      ((i = .seqPalLoad ∧ (readByte s.inRam (palAddr (pidxPalette s.pidx) (pidxColour s.pidx)) = none ∨
          readByte s.inRam (palAddr (pidxPalette s.pidx) (pidxColour s.pidx) + 1) = none)) ∨
        (i = .seqRowStart ∧ readByte s.inRam (scbAddr s.row.toNat) = none) ∨
        (i = .seqPixelPair ∧ readByte s.inRam (pixAddr s.row.toNat s.col.toNat) = none)))

/-- Derived from 93_implementation_defined.md: no well-formed operation is refused in any state. -/
def Obligations.NoWellFormedOperationIsRefused : Prop :=
  ∀ (i : Instr) (s : State) (r : Refusal), WellFormed i = true → exec i s ≠ .refused r

/-- Derived from R29, R115: while BUSY = 1 a step that answers a next state leaves IN_RAM as it is unless it is a RESET. A HOST write
of IN_RAM while BUSY = 1, which the hardware stores (R131), has no next state in the model: it is a ModelFault (log 14). -/
def Obligations.InputIsFixedDuringADecode : Prop :=
  ∀ s t : State, s.busy = true → step s = .next t → t.inRam = s.inRam ∨ ∃ es, s.inputs = .reset :: es

/-- Derived from R46: once DONE = 1, a transition leaves OUT_RAM as it is, unless it is a RESET or an OUT_WR of the HOST. -/
def Obligations.OutputIsStableWhenDone : Prop :=
  ∀ s t : State, BlockInv s → onlyTransitions s → s.done = true → step s = .next t →
    t.outRam = s.outRam ∨ (∃ es, s.inputs = .reset :: es) ∨
    ∃ key v es n a, s.inputs = .bus key v :: es ∧ decode ⟨.busTxn, key, v⟩ = .ok (.outWr n a v)

/-! ### The decode -/

/-- Derived from R84, R90, R96, R70: under every interleaving of HOST accesses, ENGINE steps and RESETs, what the decode in progress
has loaded and written stays what IN_RAM says, and the transition that completes it leaves OUT_RAM equal to DecodeRef of
IN_RAM in all 256000 bytes. -/
def Obligations.EveryTransitionKeepsTheDecodeCorrect : Prop :=
  ∀ s t : State, BlockInv s → DecodeSoFar s → onlyTransitions s → step s = .next t →
    DecodeSoFar t ∧ onlyTransitions t ∧ (s.busy = true → t.done = true → outputCorrect t)

/-- Derived from R66, R70, R72, R137: from every idle state that meets the invariant, with IN_LEN ≥ 32768 and the input written, an
accepted DECODE and exactly 32456 ENGINE steps end with DONE = 1 and OUT_RAM equal to DecodeRef of IN_RAM, with IN_RAM and IN_LEN
as before and no error record. The ENGINE's turns are those of the empty input list: after the DECODE the HOST stays away
(the model's choice, log 1). -/
def Obligations.CompletedDecodeEqualsReference : Prop :=
  ∀ (s : State) (d : Word), BlockInv s → s.busy = false → 32768 ≤ s.inLen.toNat → inputWritten s.inRam →
    d.getLsbD 0 = true → s.inputs = [.bus 0x608000#32 d] →
    ∃ t, Host.Core.run Sys2Proof.core (1 + 32456) s = .next t ∧ t.done = true ∧ t.busy = false ∧ t.err = false ∧
      t.phase = .idle ∧ outputCorrect t ∧ t.inRam = s.inRam ∧ t.inLen = s.inLen ∧ t.errActual = 0#32

/-- Derived from R137: the decode is still in progress before its 32456th ENGINE step. The ENGINE's turns are those of the empty
input list: after the DECODE the HOST stays away (the model's choice, log 1). -/
def Obligations.DecodeIsBusyUntilItsLastStep : Prop :=
  ∀ (s : State) (d : Word) (k : Nat), BlockInv s → s.busy = false → 32768 ≤ s.inLen.toNat → inputWritten s.inRam →
    d.getLsbD 0 = true → s.inputs = [.bus 0x608000#32 d] → k < 32456 →
    ∃ t, Host.Core.run Sys2Proof.core (1 + k) s = .next t ∧ t.busy = true ∧ t.done = false

/-- Derived from R74, R116, R137: with the input written, no step of a busy ENGINE can fail, and each takes the decode one step
nearer its end. -/
def Obligations.EngineStepAdvancesTheDecode : Prop :=
  ∀ (s : State) (es : List Input), BlockInv s → s.busy = true → inputWritten s.inRam → s.inputs = .engine :: es →
    ∃ t, step s = .next t ∧ remainingSteps t + 1 = remainingSteps s ∧ t.inputs = es ∧ t.inRam = s.inRam

/-- Derived from R137, R64: WAIT terminates: after any finite sequence of HOST reads (WAIT's own and others) and ENGINE turns, the steps
that are left end the decode. The fairness is the model's choice: the list of inputs is finite and the ENGINE moves when it
is empty (logs 1 and 18). Register writes and failing accesses between are not in this statement. -/
def Obligations.WaitTerminates : Prop :=
  ∀ s : State, BlockInv s → s.busy = true → inputWritten s.inRam →
    (∀ e ∈ s.inputs, e = .engine ∨ ∃ key i, e = .bus key 0#32 ∧ decode ⟨.busTxn, key, 0#32⟩ = .ok i ∧ isRead i = true) →
    ∃ t, Host.Core.run Sys2Proof.core (s.inputs.length + remainingSteps s) s = .next t ∧ t.busy = false ∧ t.done = true

/-- Derived from R72: two decodes of the same IN_RAM content, from any two idle states, leave byte-identical OUT_RAMs: no state of
an earlier decode reaches the result. The ENGINE's turns are those of the empty input list: after the DECODE the HOST stays
away (the model's choice, log 1). -/
def Obligations.DecodeDependsOnlyOnTheInput : Prop :=
  ∀ (s s' t t' : State) (d d' : Word), BlockInv s → BlockInv s' → s.busy = false → s'.busy = false →
    32768 ≤ s.inLen.toNat → 32768 ≤ s'.inLen.toNat → s.inRam = s'.inRam → inputWritten s.inRam →
    d.getLsbD 0 = true → d'.getLsbD 0 = true → s.inputs = [.bus 0x608000#32 d] → s'.inputs = [.bus 0x608000#32 d'] →
    Host.Core.run Sys2Proof.core (1 + 32456) s = .next t → Host.Core.run Sys2Proof.core (1 + 32456) s' = .next t' →
    t.outRam = t'.outRam

/-- Derived from R23, R29, R67, R73, R112, R130: the source's operation decode(raw): the HOST presents any byte sequence and issues
DECODE. At least 32768 bytes: the decode completes with OUT_RAM equal to DecodeRef of the first 32768 bytes. Fewer: ERR = 1, ERRCODE = 1,
ERR_ACTUAL = the length, and no OUT_RAM byte is written. The ENGINE's turns are those of the input list that is empty after the
DECODE (the model's choice, log 1). -/
def Obligations.PresentedInputIsDecodedOrRejected : Prop :=
  ∀ (s : State) (raw : List Byte), BlockInv s → s.busy = false → s.inputs = presentInput raw ++ pseudoDecode →
    (32768 ≤ raw.length → ∃ t, Host.Core.run Sys2Proof.core (32768 + 2 + 32456) s = .next t ∧ t.done = true ∧ t.busy = false ∧
      ∀ j, j < 256000 → readByte t.outRam j = some (decodeRef (fun i => raw.getD i 0#8) j)) ∧
    (raw.length < 32768 → ∃ t, Host.Core.run Sys2Proof.core (raw.length + 2) s = .next t ∧ t.err = true ∧ t.errcode = 1#4 ∧
      t.errActual.toNat = raw.length ∧ t.busy = false ∧ t.done = false ∧ t.outRam = s.outRam)

/-- Derived from R64: FILL while BUSY = 0, of a range inside IN_RAM or inside OUT_RAM, writes the byte b at every offset of [a, a +
count) and no other byte of that memory, keeps its canonical form, and changes nothing else of the block; of the model's own
fields it takes its inputs off the list, leaves the response of a completed write and uses up a key of the free values per
access (logs 1, 5, 6). -/
def Obligations.FillWritesItsRange : Prop :=
  ∀ (s : State) (a count : Nat) (b : Byte) (es : List Input), s.busy = false → a % 4 = 0 → count % 4 = 0 →
    s.inputs = pseudoFill a count b ++ es →
    let after : State := { s with
      inputs := es
      response := if count = 0 then s.response else .writeOk
      draws := s.draws + count / 4 }
    (a + count ≤ 32768 → ∃ m : Memory, Host.Core.run Sys2Proof.core (count / 4) s = .next { after with inRam := m } ∧
      (∀ i, a ≤ i → i < a + count → readByte m i = some b) ∧
      (∀ i, i < a ∨ a + count ≤ i → readByte m i = readByte s.inRam i) ∧
      (Memory.wf s.inRam = true → Memory.wf m = true)) ∧
    (0x40000 ≤ a → a + count ≤ 0x40000 + 256000 →
      ∃ m : Memory, Host.Core.run Sys2Proof.core (count / 4) s = .next { after with outRam := m } ∧
      (∀ i, a ≤ i → i < a + count → readByte m (i - 0x40000) = some b) ∧
      (∀ j, j + 0x40000 < a ∨ a + count ≤ j + 0x40000 → readByte m j = readByte s.outRam j) ∧
      (Memory.wf s.outRam = true → Memory.wf m = true))

/-! ### Several instances (60_exceptions.md R125) -/

/-- Derived from R125, R9: a transition of one instance leaves every other instance, and every BLOCK_BASE, as they are. It speaks of
transitions with a next state: a ModelFault ends the run of the whole system (the model's choice, log 20). -/
def Obligations.InstancesShareNoState : Prop :=
  ∀ (k : Nat) (ps qs : List Placed), systemStep k ps = .next qs →
    qs.length = ps.length ∧ ps.map (·.blockBase) = qs.map (·.blockBase) ∧ ∀ j, j ≠ k → qs[j]? = ps[j]?

/-- Derived from R33, R125: in a system whose windows do not overlap, a HOST access at a system address reaches exactly the instance
whose window holds it, at the offset from its BLOCK_BASE. -/
def Obligations.SystemAccessReachesOneInstance : Prop :=
  ∀ (ps : List Placed) (k : Nat) (p : Placed) (dir : Dir) (n : Width) (addr : Nat) (v : Word), systemWf ps = true →
    ps[k]? = some p → inWindow p addr = true →
    (systemAccess dir n addr v ps)[k]? = some { p with block := { p.block with
      inputs := .bus (txnKey dir n (BitVec.ofNat 20 (addr - p.blockBase))) v :: p.block.inputs } } ∧
    ∀ j, j ≠ k → (systemAccess dir n addr v ps)[j]? = ps[j]?

/-- Derived from R64, R21: a WAIT poll returns STATUS, and WAIT goes on exactly while BUSY = 1. -/
def Obligations.PollGoesOnWhileBusy : Prop :=
  ∀ (s : State) (es : List Input), s.inputs = pseudoPoll :: es →
    ∃ r, step s = .next { s with inputs := es, response := r } ∧ waitAgain r = s.busy
end

