-- ==== Sys2Proof/Laws/Memory.lean ====
section
/-! SUPPORT. What the memory operations do, said once: reads after writes, the frame of a write, the canonical form, the bytes of
little-endian values. -/

namespace Sys2Proof.Machine

@[simp] theorem readByte_nil (a : Nat) : readByte [] a = none := rfl

@[simp] theorem readByte_writeByte_same (m : Memory) (a : Nat) (v : Byte) : readByte (writeByte m a v) a = some v := by
  induction m with
  | nil => simp [writeByte, readByte]
  | cons c m ih =>
    obtain ⟨k, w⟩ := c
    simp only [writeByte]
    split
    · simp [readByte]
    · split
      · simp [readByte]
      · simp_all [readByte]

theorem readByte_writeByte_other (m : Memory) {a b : Nat} (v : Byte) (h : b ≠ a) :
    readByte (writeByte m a v) b = readByte m b := by
  induction m with
  | nil => simp [writeByte, readByte, h, unlisted]
  | cons c m ih =>
    obtain ⟨k, w⟩ := c
    simp only [writeByte]
    split
    · simp [readByte, h]
    · split
      · subst_vars; simp [readByte, h]
      · simp [readByte, ih]

theorem risingFrom_mono {lo lo' : Nat} {m : Memory} (h : lo' ≤ lo) (hm : risingFrom lo m = true) : risingFrom lo' m = true := by
  cases m with
  | nil => rfl
  | cons c m =>
    simp only [risingFrom, Bool.and_eq_true, decide_eq_true_eq] at *
    exact ⟨h.trans hm.1, hm.2⟩

theorem risingFrom_writeByte (m : Memory) (lo a : Nat) (v : Byte) (ha : lo ≤ a) (hm : risingFrom lo m = true) :
    risingFrom lo (writeByte m a v) = true := by
  induction m generalizing lo with
  | nil => simp [writeByte, risingFrom, ha]
  | cons c m ih =>
    obtain ⟨k, w⟩ := c
    simp only [risingFrom, Bool.and_eq_true, decide_eq_true_eq] at hm
    simp only [writeByte]
    split
    · simp only [risingFrom, Bool.and_eq_true, decide_eq_true_eq]
      exact ⟨ha, by omega, hm.2⟩
    · split
      · subst_vars; simp only [risingFrom, Bool.and_eq_true, decide_eq_true_eq]; exact hm
      · simp only [risingFrom, Bool.and_eq_true, decide_eq_true_eq]
        exact ⟨hm.1, ih _ (by omega) hm.2⟩

theorem wf_iff_rising (m : Memory) : Memory.wf m = true ↔ risingFrom 0 m = true := by
  simp [Memory.wf, unlisted]

theorem writeByte_wf {m : Memory} (a : Nat) (v : Byte) (h : Memory.wf m = true) : Memory.wf (writeByte m a v) = true := by
  rw [wf_iff_rising] at *; exact risingFrom_writeByte m 0 a v (Nat.zero_le _) h

theorem writeByte_inBounds {m : Memory} {size a : Nat} (v : Byte) (ha : a < size) (h : inBounds size m = true) :
    inBounds size (writeByte m a v) = true := by
  induction m with
  | nil => simpa [writeByte, inBounds] using ha
  | cons c m ih =>
    obtain ⟨k, w⟩ := c
    simp only [inBounds, List.all_cons, Bool.and_eq_true, decide_eq_true_eq] at *
    simp only [writeByte]
    split
    · simp only [List.all_cons, Bool.and_eq_true, decide_eq_true_eq]; exact ⟨ha, h⟩
    · split
      · simp only [List.all_cons, Bool.and_eq_true, decide_eq_true_eq]; exact ⟨ha, h.2⟩
      · simp only [List.all_cons, Bool.and_eq_true, decide_eq_true_eq]; exact ⟨h.1, ih h.2⟩

/-- No byte is listed at or past the size of a memory in bounds. -/
theorem readByte_past_size {m : Memory} {size a : Nat} (h : inBounds size m = true) (ha : size ≤ a) : readByte m a = none := by
  induction m with
  | nil => rfl
  | cons c m ih =>
    obtain ⟨k, w⟩ := c
    simp only [inBounds, List.all_cons, Bool.and_eq_true, decide_eq_true_eq] at h
    simp only [readByte]
    rw [if_neg (by omega)]
    exact ih h.2

theorem readByte_below {lo : Nat} {m : Memory} {a : Nat} (h : risingFrom lo m = true) (ha : a < lo) : readByte m a = none := by
  induction m generalizing lo with
  | nil => rfl
  | cons c m ih =>
    obtain ⟨k, w⟩ := c
    simp only [risingFrom, Bool.and_eq_true, decide_eq_true_eq] at h
    simp only [readByte]
    rw [if_neg (by omega)]
    exact ih h.2 (by omega)

/-- The canonical form is canonical: memories that read alike are equal data. -/
theorem eq_of_readByte_eq {m m' : Memory} (h : Memory.wf m = true) (h' : Memory.wf m' = true)
    (hr : ∀ a, readByte m a = readByte m' a) : m = m' := by
  rw [wf_iff_rising] at h h'
  suffices H : ∀ (m m' : Memory) (lo lo' : Nat), risingFrom lo m = true → risingFrom lo' m' = true →
      (∀ a, readByte m a = readByte m' a) → m = m' from H m m' 0 0 h h' hr
  intro m
  induction m with
  | nil =>
    intro m' lo lo' _ _ hr
    cases m' with
    | nil => rfl
    | cons c _ => have := hr c.1; simp [readByte, unlisted] at this
  | cons c m ih =>
    obtain ⟨k, w⟩ := c
    intro m' lo lo' h h' hr
    cases m' with
    | nil => have := hr k; simp [readByte, unlisted] at this
    | cons c' m' =>
      obtain ⟨k', w'⟩ := c'
      simp only [risingFrom, Bool.and_eq_true, decide_eq_true_eq] at h h'
      have hkk : k = k' := by
        rcases Nat.lt_trichotomy k k' with hlt | heq | hgt
        · have := hr k
          simp only [readByte, if_neg (Nat.ne_of_lt hlt)] at this
          rw [readByte_below h'.2 (by omega)] at this
          simp at this
        · exact heq
        · have := hr k'
          simp only [readByte, if_neg (Nat.ne_of_lt hgt)] at this
          rw [readByte_below h.2 (by omega)] at this
          simp at this
      subst hkk
      have hw : w = w' := by have := hr k; simpa [readByte] using this
      subst hw
      congr 1
      apply ih m' (k + 1) (k + 1) h.2 h'.2
      intro a
      by_cases ha : a = k
      · subst ha; rw [readByte_below h.2 (by omega), readByte_below h'.2 (by omega)]
      · have := hr a; simpa [readByte, ha] using this

theorem storeBytes_wf {m : Memory} (a : Nat) (vs : List Byte) (h : Memory.wf m = true) : Memory.wf (storeBytes m a vs) = true := by
  induction vs generalizing m a with
  | nil => exact h
  | cons v vs ih => exact ih _ (writeByte_wf a v h)

theorem storeBytes_inBounds {m : Memory} {size a : Nat} {vs : List Byte} (ha : a + vs.length ≤ size) (h : inBounds size m = true) :
    inBounds size (storeBytes m a vs) = true := by
  induction vs generalizing m a with
  | nil => exact h
  | cons v vs ih =>
    simp only [List.length_cons] at ha
    exact ih (by omega) (writeByte_inBounds v (by omega) h)

/-- Bytes outside the stored range read as before. -/
theorem readByte_storeBytes_outside (m : Memory) (a : Nat) (vs : List Byte) {b : Nat} (h : b < a ∨ a + vs.length ≤ b) :
    readByte (storeBytes m a vs) b = readByte m b := by
  induction vs generalizing m a with
  | nil => rfl
  | cons v vs ih =>
    simp only [List.length_cons] at h
    simp only [storeBytes]
    rw [ih _ _ (by omega), readByte_writeByte_other _ _ (by omega)]

/-- Byte k of the stored bytes stands at offset a + k. -/
theorem readByte_storeBytes_inside (m : Memory) (a : Nat) (vs : List Byte) {k : Nat} (h : k < vs.length) :
    readByte (storeBytes m a vs) (a + k) = some vs[k] := by
  induction vs generalizing m a k with
  | nil => simp at h
  | cons v vs ih =>
    simp only [storeBytes]
    cases k with
    | zero =>
      rw [readByte_storeBytes_outside _ _ _ (by omega)]
      simp
    | succ k =>
      rw [show a + (k + 1) = a + 1 + k by omega]
      simpa using ih (writeByte m a v) (a + 1) (by simpa using h)

@[simp] theorem leBytes_length (n : Nat) (v : Word) : (leBytes n v).length = n := by simp [leBytes]

theorem memWrite_wf {m : Memory} (a n : Nat) (v : Word) (h : Memory.wf m = true) : Memory.wf (memWrite m a n v) = true :=
  storeBytes_wf a _ h

theorem memWrite_inBounds {m : Memory} {size a n : Nat} (v : Word) (ha : a + n ≤ size) (h : inBounds size m = true) :
    inBounds size (memWrite m a n v) = true :=
  storeBytes_inBounds (by simpa using ha) h

theorem readByte_memWrite_outside (m : Memory) (a n : Nat) (v : Word) {b : Nat} (h : b < a ∨ a + n ≤ b) :
    readByte (memWrite m a n v) b = readByte m b :=
  readByte_storeBytes_outside _ _ _ (by simpa using h)

theorem readByte_memWrite_inside (m : Memory) (a n : Nat) (v : Word) {k : Nat} (h : k < n) :
    readByte (memWrite m a n v) (a + k) = some (byteOf v k) := by
  have h' : k < (leBytes n v).length := by simpa using h
  rw [memWrite, readByte_storeBytes_inside _ _ _ h']
  simp [leBytes]

theorem leValue_lt (bs : List Byte) : leValue bs < 256 ^ bs.length := by
  induction bs with
  | nil => simp [leValue]
  | cons b bs ih =>
    have := b.isLt
    simp only [leValue, List.length_cons, Nat.pow_succ]
    omega

/-- Byte k of a little-endian value is the k-th byte. -/
theorem leValue_byte (bs : List Byte) {k : Nat} (h : k < bs.length) : leValue bs / 256 ^ k % 256 = (bs[k]).toNat := by
  induction bs generalizing k with
  | nil => simp at h
  | cons b bs ih =>
    have hb := b.isLt
    cases k with
    | zero => simp only [leValue]; simp; omega
    | succ k =>
      simp only [leValue, List.getElem_cons_succ]
      rw [← ih (by simpa using h), Nat.pow_succ, Nat.mul_comm (256 ^ k), ← Nat.div_div_eq_div_mul]
      congr 2
      omega

theorem byteOf_toNat (v : Word) (k : Nat) : (byteOf v k).toNat = v.toNat / 256 ^ k % 256 := by
  simp [byteOf, BitVec.extractLsb'_toNat, Nat.shiftRight_eq_div_pow, Nat.pow_mul]

theorem widthLimit_eq (n : Width) : widthLimit n = 256 ^ nBytes n := by cases n <;> rfl

theorem nBytes_le (n : Width) : nBytes n ≤ 4 := by cases n <;> decide

/-- A read returns an n-byte value. -/
theorem memRead_lt (loc : Nat → Byte) (a : Nat) (n : Width) : (memRead loc a (nBytes n)).toNat < widthLimit n := by
  have h := leValue_lt ((List.range (nBytes n)).map fun k => loc (a + k))
  rw [List.length_map, List.length_range] at h
  refine lt_of_le_of_lt (Nat.mod_le _ _) ?_
  rw [widthLimit_eq]; exact h

/-- Byte k of the value read is the byte at offset a + k. -/
theorem byteOf_memRead (loc : Nat → Byte) (a : Nat) (n : Width) {k : Nat} (h : k < nBytes n) :
    byteOf (memRead loc a (nBytes n)) k = loc (a + k) := by
  apply BitVec.eq_of_toNat_eq
  have hl := leValue_lt ((List.range (nBytes n)).map fun k => loc (a + k))
  rw [List.length_map, List.length_range] at hl
  have h4 : (256 : Nat) ^ nBytes n ≤ 2 ^ 32 := (Nat.pow_le_pow_right (by decide) (nBytes_le n)).trans (by norm_num)
  rw [byteOf_toNat, memRead, BitVec.toNat_ofNat, Nat.mod_eq_of_lt (lt_of_lt_of_le hl h4), leValue_byte _ (by simpa using h)]
  simp

/-- n bytes fix an n-byte value. -/
theorem eq_of_bytes_eq {n : Width} {v w : Word} (hv : v.toNat < widthLimit n) (hw : w.toNat < widthLimit n)
    (h : ∀ k, k < nBytes n → byteOf v k = byteOf w k) : v = w := by
  apply BitVec.eq_of_toNat_eq
  have hb : ∀ k, k < nBytes n → v.toNat / 256 ^ k % 256 = w.toNat / 256 ^ k % 256 := by
    intro k hk; rw [← byteOf_toNat, ← byteOf_toNat, h k hk]
  cases n with
  | one => have := hb 0 (by decide); simp [widthLimit] at *; omega
  | two => have := hb 0 (by decide); have := hb 1 (by decide); simp [widthLimit] at *; omega
  | four =>
    have := hb 0 (by decide); have := hb 1 (by decide); have := hb 2 (by decide); have := hb 3 (by decide)
    simp [widthLimit] at *; omega

end Sys2Proof.Machine
end

