-- ==== Sys2Proof/Laws/Decode.lean ====
section
/-! SUPPORT. What the decoder does with the fields of a bus transaction, and the fields of an encoded one. -/

namespace Sys2Proof

open Sys2Proof.Machine

theorem decode_of_fits {f : Format} {w v : Word} (h : w.toNat < formatLimit f) : decode ⟨f, w, v⟩ = decodeFormat f w v :=
  if_pos h

theorem txnKey_toNat (dir : Dir) (n : Width) (a : Offset) :
    (txnKey dir n a).toNat = dirCode dir * 0x400000 + widthCode n * 0x100000 + a.toNat := by
  have := a.isLt
  rw [txnKey, BitVec.toNat_ofNat]
  cases dir <;> cases n <;> simp only [dirCode, widthCode] <;> omega

theorem txnKey_fits (dir : Dir) (n : Width) (a : Offset) : (txnKey dir n a).toNat < formatLimit .busTxn := by
  have := a.isLt
  rw [txnKey_toNat]
  cases dir <;> cases n <;> simp only [dirCode, widthCode, formatLimit] <;> omega

theorem keyOffset_toNat (k : Word) : (keyOffset k).toNat = k.toNat % 0x100000 := by
  simp [keyOffset]

theorem keyWidthCode_eq (k : Word) : keyWidthCode k = k.toNat / 0x100000 % 4 := by
  simp [keyWidthCode, Nat.shiftRight_eq_div_pow]

theorem keyDir_eq (k : Word) : keyDir k = if k.toNat / 0x400000 % 2 = 1 then .wr else .rd := by
  simp [keyDir, BitVec.getLsbD, Nat.testBit_eq_decide_div_mod_eq]

theorem keyOffset_txnKey (dir : Dir) (n : Width) (a : Offset) : keyOffset (txnKey dir n a) = a := by
  apply BitVec.eq_of_toNat_eq
  have := a.isLt
  rw [keyOffset_toNat, txnKey_toNat]
  cases dir <;> cases n <;> simp only [dirCode, widthCode] <;> omega

theorem keyWidth_txnKey (dir : Dir) (n : Width) (a : Offset) : widthOfCode (keyWidthCode (txnKey dir n a)) = some n := by
  have := a.isLt
  have h : keyWidthCode (txnKey dir n a) = widthCode n := by
    rw [keyWidthCode_eq, txnKey_toNat]
    cases dir <;> cases n <;> simp only [dirCode, widthCode] <;> omega
  rw [h]; cases n <;> rfl

theorem keyDir_txnKey (dir : Dir) (n : Width) (a : Offset) : keyDir (txnKey dir n a) = dir := by
  have := a.isLt
  rw [keyDir_eq, txnKey_toNat]
  cases dir
  · exact if_neg (by cases n <;> simp only [dirCode, widthCode] <;> omega)
  · exact if_pos (by cases n <;> simp only [dirCode, widthCode] <;> omega)

theorem decodeTxn_of_width {k v : Word} {n : Width} (h : widthOfCode (keyWidthCode k) = some n) :
    decodeTxn k v = decodeFields (keyDir k) n (keyOffset k) v := by
  unfold decodeTxn; rw [h]

/-- A transaction is decoded by its fields. -/
theorem decode_txnKey (dir : Dir) (n : Width) (a : Offset) (v : Word) :
    decode ⟨.busTxn, txnKey dir n a, v⟩ = decodeFields dir n a v := by
  refine (decode_of_fits (txnKey_fits dir n a)).trans ((decodeTxn_of_width (keyWidth_txnKey dir n a)).trans ?_)
  rw [keyDir_txnKey, keyOffset_txnKey]

theorem regAt_regOffset (r : Reg) : regAt (regOffset r) = some r := by cases r <;> rfl

theorem dataOk_wr_four (v : Word) : dataOk .wr .four v = true := by
  have := v.isLt
  exact decide_eq_true (show v.toNat < 0x100000000 by omega)

theorem passesIn_iff {r : Region} {n : Width} {a : Offset} :
    passesIn r n a = true ↔ busCheck n a = none ∧ regionOf n a = some r := by
  simp [passesIn]

/-- A failing access is BUS_FAULT. -/
theorem decodeFields_fails {dir : Dir} {n : Width} {a : Offset} {v : Word} {c : BusCause} (hd : dataOk dir n v = true)
    (hc : busCheck n a = some c) : decodeFields dir n a v = .ok (.busFault dir n a v) := by
  unfold decodeFields; simp [hd, hc]

/-- A passing access is the operation of its region. -/
theorem decodeFields_passes {dir : Dir} {n : Width} {a : Offset} {v : Word} (hd : dataOk dir n v = true)
    (hc : busCheck n a = none) : decodeFields dir n a v = selectTxn dir n a v := by
  unfold decodeFields; simp [hd, hc]

/-- A 4-byte access of a register is that register's operation. -/
theorem decode_reg (dir : Dir) (r : Reg) (v : Word) (h : dataOk dir .four v = true) :
    decode ⟨.busTxn, txnKey dir .four (regOffset r), v⟩ = .ok (selectReg dir r v) := by
  rw [decode_txnKey, decodeFields_passes h (by cases r <;> rfl)]
  cases r <;> rfl

theorem plain_ok {v : Word} {i j : Instr} (h : plain v i = .ok j) : i = j := by
  unfold plain at h; split at h <;> simp_all

theorem format_decodeFields {dir : Dir} {n : Width} {a : Offset} {v : Word} {i : Instr}
    (h : decodeFields dir n a v = .ok i) : (encode i).format = .busTxn := by
  unfold decodeFields at h
  split at h
  · split at h
    · cases h; rfl
    · unfold selectTxn at h
      split at h
      · cases dir <;> cases h <;> rfl
      · cases dir <;> cases h <;> rfl
      · split at h
        · next r _ => cases r <;> cases dir <;> cases h <;> rfl
        · cases h
  · cases h

theorem format_decodeTxn {key v : Word} {i : Instr} (h : decodeTxn key v = .ok i) : (encode i).format = .busTxn := by
  unfold decodeTxn at h
  split at h
  · exact format_decodeFields h
  · cases h

/-- An operation is decoded from the format it is encoded in. -/
theorem format_of_decode {op : OpWord} {i : Instr} (h : decode op = .ok i) : (encode i).format = op.format := by
  obtain ⟨f, w, v⟩ := op
  unfold decode at h
  split at h
  · cases f <;> simp only [decodeFormat] at h
    · have := plain_ok h; subst this; unfold decodePhase; split <;> [rfl; split <;> [rfl; split <;> rfl]]
    · have := plain_ok h; subst this; unfold decodeCtrl; split <;> rfl
    · exact format_decodeTxn h
    · have := plain_ok h; subst this; rfl
    · have := plain_ok h; subst this; rfl
    · have := plain_ok h; subst this; rfl
    · unfold decodePixel at h
      split at h <;> [cases h; split at h <;> [cases h; split at h <;> [cases h; (cases h; rfl)]]]
    · have := plain_ok h; subst this; rfl
    · have := plain_ok h; subst this; rfl
  · cases h

end Sys2Proof
end

