-- ==== Sys2Proof/Laws/Bus.lean ====
section
/-! SUPPORT. What the checks of an access say about its offset, and what a HOST access can do. -/

namespace Sys2Proof.Machine

theorem insideRegion_iff {r : Region} {n : Width} {a : Offset} :
    insideRegion r n a = true ↔ regionBase r ≤ a.toNat ∧ a.toNat + nBytes n ≤ regionBase r + regionSize r := by
  simp [insideRegion]

theorem nBytes_pos (n : Width) : 0 < nBytes n := by cases n <;> decide

/-- No access is inside two regions. -/
theorem insideRegion_unique {r r' : Region} {n : Width} {a : Offset} (h : insideRegion r n a = true)
    (h' : insideRegion r' n a = true) : r = r' := by
  have hn := nBytes_pos n
  rw [insideRegion_iff] at h h'
  cases r <;> cases r' <;> simp only [regionBase, regionSize, Config.inSize, Config.regBase, Config.regSize,
    Config.outBase, Config.outSize] at h h' <;> first | rfl | omega

/-- The region of an access holds its bytes. -/
theorem regionOf_eq_some {n : Width} {a : Offset} {r : Region} : regionOf n a = some r ↔ insideRegion r n a = true := by
  unfold regionOf
  constructor
  · intro h
    split at h
    · cases h; assumption
    · split at h
      · cases h; assumption
      · split at h
        · cases h; assumption
        · cases h
  · intro h
    have key : ∀ r', insideRegion r' n a = true → r' = r := fun r' h' => insideRegion_unique h' h
    split
    · next h1 => rw [key _ h1]
    · split
      · next h1 => rw [key _ h1]
      · split
        · next h1 => rw [key _ h1]
        · cases r <;> contradiction

theorem regionOf_eq_none {n : Width} {a : Offset} : regionOf n a = none ↔ ∀ r, insideRegion r n a = false := by
  constructor
  · intro h r
    cases hr : insideRegion r n a
    · rfl
    · rw [← regionOf_eq_some, h] at hr; cases hr
  · intro h
    simp [regionOf, h]

/-- An access passes the checks exactly when its bytes are in one region that accepts its width and it is aligned. -/
theorem busCheck_eq_none {n : Width} {a : Offset} :
    busCheck n a = none ↔ ∃ r, insideRegion r n a = true ∧ acceptsWidth r n = true ∧ a.toNat % nBytes n = 0 := by
  unfold busCheck
  cases h : regionOf n a with
  | none =>
    rw [regionOf_eq_none] at h
    simp [h]
  | some r =>
    have hr := regionOf_eq_some.mp h
    constructor
    · intro hc
      refine ⟨r, hr, ?_⟩
      by_cases hw : acceptsWidth r n = false
      · simp [hw] at hc
      · by_cases hm : a.toNat % nBytes n = 0
        · exact ⟨by simpa using hw, hm⟩
        · simp [hw, hm] at hc
    · rintro ⟨r', hr', hw, hm⟩
      rw [← regionOf_eq_some, h] at hr'
      cases hr'
      simp [hw, hm]

/-- An access that passes the checks in its own region is performed. -/
theorem checkedAccess_of_passes {r : Region} {dir : Dir} {n : Width} {a : Offset} {s : State}
    {k : State → Host.Outcome State Fault Refusal} (h : passesIn r n a = true) : checkedAccess r dir n a s k = k s := by
  rw [passesIn_iff] at h
  unfold checkedAccess
  simp [h]

/-- The next states of a checked access: a BusError response, or what the access itself gives. -/
theorem checkedAccess_next {r : Region} {dir : Dir} {n : Width} {a : Offset} {s t : State}
    {k : State → Host.Outcome State Fault Refusal} (h : checkedAccess r dir n a s k = .next t) :
    (∃ c, busCheck n a = some c ∧ t = busError dir c s) ∨ (passesIn r n a = true ∧ k s = .next t) := by
  unfold checkedAccess at h
  split at h
  · next c hc => cases h; exact .inl ⟨c, hc, rfl⟩
  · next hc =>
    split at h
    · next hr => exact .inr ⟨passesIn_iff.mpr ⟨hc, hr⟩, h⟩
    · cases h

/-- A BusError changes the response alone. -/
theorem busError_eq (dir : Dir) (c : BusCause) (s : State) : ∃ r, busError dir c s = respond r s := by
  cases dir
  · exact ⟨_, rfl⟩
  · exact ⟨_, rfl⟩

/-- The offsets of a passing access. -/
theorem passesIn_bounds {r : Region} {n : Width} {a : Offset} (h : passesIn r n a = true) :
    regionBase r ≤ a.toNat ∧ a.toNat + nBytes n ≤ regionBase r + regionSize r :=
  insideRegion_iff.mp (regionOf_eq_some.mp (passesIn_iff.mp h).2)

/-- IN_RD of a passing access. -/
theorem execInRd_of_passes {n : Width} {a : Offset} {s : State} (h : passesIn .inRam n a = true) :
    execInRd n a s = .next (respond (.readOk (memRead (hostInByte s) a.toNat (nBytes n))) s) := by
  unfold execInRd; rw [checkedAccess_of_passes h]

/-- IN_WR of a passing access. -/
theorem execInWr_of_passes {n : Width} {a : Offset} {v : Word} {s : State} (h : passesIn .inRam n a = true) :
    execInWr n a v s = if s.busy then .fault .hostWriteWhileBusy
      else .next (respond .writeOk (setInRam (memWrite s.inRam a.toNat (nBytes n) v) s)) := by
  unfold execInWr; rw [checkedAccess_of_passes h]

/-- OUT_RD of a passing access. -/
theorem execOutRd_of_passes {n : Width} {a : Offset} {s : State} (h : passesIn .outRam n a = true) :
    execOutRd n a s = if s.busy
      then .next (tick (respond (.readOk (memRead (Config.freeByte s.draws) a.toNat (nBytes n))) s))
      else .next (respond (.readOk (memRead (hostOutByte s) a.toNat (nBytes n))) s) := by
  unfold execOutRd; rw [checkedAccess_of_passes h]

/-- OUT_WR of a passing access. -/
theorem execOutWr_of_passes {n : Width} {a : Offset} {v : Word} {s : State} (h : passesIn .outRam n a = true) :
    execOutWr n a v s = if s.busy then .fault .hostWriteWhileBusy
      else .next (respond .writeOk (setOutRam (memWrite s.outRam (a.toNat - Config.outBase) (nBytes n) v) s)) := by
  unfold execOutWr; rw [checkedAccess_of_passes h]

end Sys2Proof.Machine
end

