-- ==== Sys2Proof/Laws/State.lean ====
section
/-! SUPPORT. One lemma per field per update of State: what each shared update leaves and what it writes. -/

namespace Sys2Proof.Machine

@[simp] theorem tick_busy (s : State) : (tick s).busy = s.busy := rfl
@[simp] theorem tick_done (s : State) : (tick s).done = s.done := rfl
@[simp] theorem tick_err (s : State) : (tick s).err = s.err := rfl
@[simp] theorem tick_errcode (s : State) : (tick s).errcode = s.errcode := rfl
@[simp] theorem tick_inLen (s : State) : (tick s).inLen = s.inLen := rfl
@[simp] theorem tick_errActual (s : State) : (tick s).errActual = s.errActual := rfl
@[simp] theorem tick_phase (s : State) : (tick s).phase = s.phase := rfl
@[simp] theorem tick_pidx (s : State) : (tick s).pidx = s.pidx := rfl
@[simp] theorem tick_row (s : State) : (tick s).row = s.row := rfl
@[simp] theorem tick_col (s : State) : (tick s).col = s.col := rfl
@[simp] theorem tick_psel (s : State) : (tick s).psel = s.psel := rfl
@[simp] theorem tick_pal (s : State) : (tick s).pal = s.pal := rfl
@[simp] theorem tick_inRam (s : State) : (tick s).inRam = s.inRam := rfl
@[simp] theorem tick_outRam (s : State) : (tick s).outRam = s.outRam := rfl
@[simp] theorem tick_response (s : State) : (tick s).response = s.response := rfl
@[simp] theorem tick_unitOut (s : State) : (tick s).unitOut = s.unitOut := rfl
@[simp] theorem tick_inputs (s : State) : (tick s).inputs = s.inputs := rfl
@[simp] theorem tick_draws (s : State) : (tick s).draws = s.draws + 1 := rfl

@[simp] theorem respond_busy (r : BusResponse) (s : State) : (respond r s).busy = s.busy := rfl
@[simp] theorem respond_done (r : BusResponse) (s : State) : (respond r s).done = s.done := rfl
@[simp] theorem respond_err (r : BusResponse) (s : State) : (respond r s).err = s.err := rfl
@[simp] theorem respond_errcode (r : BusResponse) (s : State) : (respond r s).errcode = s.errcode := rfl
@[simp] theorem respond_inLen (r : BusResponse) (s : State) : (respond r s).inLen = s.inLen := rfl
@[simp] theorem respond_errActual (r : BusResponse) (s : State) : (respond r s).errActual = s.errActual := rfl
@[simp] theorem respond_phase (r : BusResponse) (s : State) : (respond r s).phase = s.phase := rfl
@[simp] theorem respond_pidx (r : BusResponse) (s : State) : (respond r s).pidx = s.pidx := rfl
@[simp] theorem respond_row (r : BusResponse) (s : State) : (respond r s).row = s.row := rfl
@[simp] theorem respond_col (r : BusResponse) (s : State) : (respond r s).col = s.col := rfl
@[simp] theorem respond_psel (r : BusResponse) (s : State) : (respond r s).psel = s.psel := rfl
@[simp] theorem respond_pal (r : BusResponse) (s : State) : (respond r s).pal = s.pal := rfl
@[simp] theorem respond_inRam (r : BusResponse) (s : State) : (respond r s).inRam = s.inRam := rfl
@[simp] theorem respond_outRam (r : BusResponse) (s : State) : (respond r s).outRam = s.outRam := rfl
@[simp] theorem respond_response (r : BusResponse) (s : State) : (respond r s).response = r := rfl
@[simp] theorem respond_unitOut (r : BusResponse) (s : State) : (respond r s).unitOut = s.unitOut := rfl
@[simp] theorem respond_inputs (r : BusResponse) (s : State) : (respond r s).inputs = s.inputs := rfl
@[simp] theorem respond_draws (r : BusResponse) (s : State) : (respond r s).draws = s.draws := rfl

@[simp] theorem setUnit_busy (u : UnitResult) (s : State) : (setUnit u s).busy = s.busy := rfl
@[simp] theorem setUnit_done (u : UnitResult) (s : State) : (setUnit u s).done = s.done := rfl
@[simp] theorem setUnit_err (u : UnitResult) (s : State) : (setUnit u s).err = s.err := rfl
@[simp] theorem setUnit_errcode (u : UnitResult) (s : State) : (setUnit u s).errcode = s.errcode := rfl
@[simp] theorem setUnit_inLen (u : UnitResult) (s : State) : (setUnit u s).inLen = s.inLen := rfl
@[simp] theorem setUnit_errActual (u : UnitResult) (s : State) : (setUnit u s).errActual = s.errActual := rfl
@[simp] theorem setUnit_phase (u : UnitResult) (s : State) : (setUnit u s).phase = s.phase := rfl
@[simp] theorem setUnit_pidx (u : UnitResult) (s : State) : (setUnit u s).pidx = s.pidx := rfl
@[simp] theorem setUnit_row (u : UnitResult) (s : State) : (setUnit u s).row = s.row := rfl
@[simp] theorem setUnit_col (u : UnitResult) (s : State) : (setUnit u s).col = s.col := rfl
@[simp] theorem setUnit_psel (u : UnitResult) (s : State) : (setUnit u s).psel = s.psel := rfl
@[simp] theorem setUnit_pal (u : UnitResult) (s : State) : (setUnit u s).pal = s.pal := rfl
@[simp] theorem setUnit_inRam (u : UnitResult) (s : State) : (setUnit u s).inRam = s.inRam := rfl
@[simp] theorem setUnit_outRam (u : UnitResult) (s : State) : (setUnit u s).outRam = s.outRam := rfl
@[simp] theorem setUnit_response (u : UnitResult) (s : State) : (setUnit u s).response = s.response := rfl
@[simp] theorem setUnit_unitOut (u : UnitResult) (s : State) : (setUnit u s).unitOut = some u := rfl
@[simp] theorem setUnit_inputs (u : UnitResult) (s : State) : (setUnit u s).inputs = s.inputs := rfl
@[simp] theorem setUnit_draws (u : UnitResult) (s : State) : (setUnit u s).draws = s.draws := rfl

@[simp] theorem setInRam_busy (m : Memory) (s : State) : (setInRam m s).busy = s.busy := rfl
@[simp] theorem setInRam_done (m : Memory) (s : State) : (setInRam m s).done = s.done := rfl
@[simp] theorem setInRam_err (m : Memory) (s : State) : (setInRam m s).err = s.err := rfl
@[simp] theorem setInRam_errcode (m : Memory) (s : State) : (setInRam m s).errcode = s.errcode := rfl
@[simp] theorem setInRam_inLen (m : Memory) (s : State) : (setInRam m s).inLen = s.inLen := rfl
@[simp] theorem setInRam_errActual (m : Memory) (s : State) : (setInRam m s).errActual = s.errActual := rfl
@[simp] theorem setInRam_phase (m : Memory) (s : State) : (setInRam m s).phase = s.phase := rfl
@[simp] theorem setInRam_pidx (m : Memory) (s : State) : (setInRam m s).pidx = s.pidx := rfl
@[simp] theorem setInRam_row (m : Memory) (s : State) : (setInRam m s).row = s.row := rfl
@[simp] theorem setInRam_col (m : Memory) (s : State) : (setInRam m s).col = s.col := rfl
@[simp] theorem setInRam_psel (m : Memory) (s : State) : (setInRam m s).psel = s.psel := rfl
@[simp] theorem setInRam_pal (m : Memory) (s : State) : (setInRam m s).pal = s.pal := rfl
@[simp] theorem setInRam_inRam (m : Memory) (s : State) : (setInRam m s).inRam = m := rfl
@[simp] theorem setInRam_outRam (m : Memory) (s : State) : (setInRam m s).outRam = s.outRam := rfl
@[simp] theorem setInRam_response (m : Memory) (s : State) : (setInRam m s).response = s.response := rfl
@[simp] theorem setInRam_unitOut (m : Memory) (s : State) : (setInRam m s).unitOut = s.unitOut := rfl
@[simp] theorem setInRam_inputs (m : Memory) (s : State) : (setInRam m s).inputs = s.inputs := rfl
@[simp] theorem setInRam_draws (m : Memory) (s : State) : (setInRam m s).draws = s.draws := rfl

@[simp] theorem setOutRam_busy (m : Memory) (s : State) : (setOutRam m s).busy = s.busy := rfl
@[simp] theorem setOutRam_done (m : Memory) (s : State) : (setOutRam m s).done = s.done := rfl
@[simp] theorem setOutRam_err (m : Memory) (s : State) : (setOutRam m s).err = s.err := rfl
@[simp] theorem setOutRam_errcode (m : Memory) (s : State) : (setOutRam m s).errcode = s.errcode := rfl
@[simp] theorem setOutRam_inLen (m : Memory) (s : State) : (setOutRam m s).inLen = s.inLen := rfl
@[simp] theorem setOutRam_errActual (m : Memory) (s : State) : (setOutRam m s).errActual = s.errActual := rfl
@[simp] theorem setOutRam_phase (m : Memory) (s : State) : (setOutRam m s).phase = s.phase := rfl
@[simp] theorem setOutRam_pidx (m : Memory) (s : State) : (setOutRam m s).pidx = s.pidx := rfl
@[simp] theorem setOutRam_row (m : Memory) (s : State) : (setOutRam m s).row = s.row := rfl
@[simp] theorem setOutRam_col (m : Memory) (s : State) : (setOutRam m s).col = s.col := rfl
@[simp] theorem setOutRam_psel (m : Memory) (s : State) : (setOutRam m s).psel = s.psel := rfl
@[simp] theorem setOutRam_pal (m : Memory) (s : State) : (setOutRam m s).pal = s.pal := rfl
@[simp] theorem setOutRam_inRam (m : Memory) (s : State) : (setOutRam m s).inRam = s.inRam := rfl
@[simp] theorem setOutRam_outRam (m : Memory) (s : State) : (setOutRam m s).outRam = m := rfl
@[simp] theorem setOutRam_response (m : Memory) (s : State) : (setOutRam m s).response = s.response := rfl
@[simp] theorem setOutRam_unitOut (m : Memory) (s : State) : (setOutRam m s).unitOut = s.unitOut := rfl
@[simp] theorem setOutRam_inputs (m : Memory) (s : State) : (setOutRam m s).inputs = s.inputs := rfl
@[simp] theorem setOutRam_draws (m : Memory) (s : State) : (setOutRam m s).draws = s.draws := rfl

@[simp] theorem setInLen_busy (d : Word) (s : State) : (setInLen d s).busy = s.busy := rfl
@[simp] theorem setInLen_done (d : Word) (s : State) : (setInLen d s).done = s.done := rfl
@[simp] theorem setInLen_err (d : Word) (s : State) : (setInLen d s).err = s.err := rfl
@[simp] theorem setInLen_errcode (d : Word) (s : State) : (setInLen d s).errcode = s.errcode := rfl
@[simp] theorem setInLen_inLen (d : Word) (s : State) : (setInLen d s).inLen = d := rfl
@[simp] theorem setInLen_errActual (d : Word) (s : State) : (setInLen d s).errActual = s.errActual := rfl
@[simp] theorem setInLen_phase (d : Word) (s : State) : (setInLen d s).phase = s.phase := rfl
@[simp] theorem setInLen_pidx (d : Word) (s : State) : (setInLen d s).pidx = s.pidx := rfl
@[simp] theorem setInLen_row (d : Word) (s : State) : (setInLen d s).row = s.row := rfl
@[simp] theorem setInLen_col (d : Word) (s : State) : (setInLen d s).col = s.col := rfl
@[simp] theorem setInLen_psel (d : Word) (s : State) : (setInLen d s).psel = s.psel := rfl
@[simp] theorem setInLen_pal (d : Word) (s : State) : (setInLen d s).pal = s.pal := rfl
@[simp] theorem setInLen_inRam (d : Word) (s : State) : (setInLen d s).inRam = s.inRam := rfl
@[simp] theorem setInLen_outRam (d : Word) (s : State) : (setInLen d s).outRam = s.outRam := rfl
@[simp] theorem setInLen_response (d : Word) (s : State) : (setInLen d s).response = s.response := rfl
@[simp] theorem setInLen_unitOut (d : Word) (s : State) : (setInLen d s).unitOut = s.unitOut := rfl
@[simp] theorem setInLen_inputs (d : Word) (s : State) : (setInLen d s).inputs = s.inputs := rfl
@[simp] theorem setInLen_draws (d : Word) (s : State) : (setInLen d s).draws = s.draws := rfl

@[simp] theorem setInputs_busy (es : List Input) (s : State) : (setInputs es s).busy = s.busy := rfl
@[simp] theorem setInputs_done (es : List Input) (s : State) : (setInputs es s).done = s.done := rfl
@[simp] theorem setInputs_err (es : List Input) (s : State) : (setInputs es s).err = s.err := rfl
@[simp] theorem setInputs_errcode (es : List Input) (s : State) : (setInputs es s).errcode = s.errcode := rfl
@[simp] theorem setInputs_inLen (es : List Input) (s : State) : (setInputs es s).inLen = s.inLen := rfl
@[simp] theorem setInputs_errActual (es : List Input) (s : State) : (setInputs es s).errActual = s.errActual := rfl
@[simp] theorem setInputs_phase (es : List Input) (s : State) : (setInputs es s).phase = s.phase := rfl
@[simp] theorem setInputs_pidx (es : List Input) (s : State) : (setInputs es s).pidx = s.pidx := rfl
@[simp] theorem setInputs_row (es : List Input) (s : State) : (setInputs es s).row = s.row := rfl
@[simp] theorem setInputs_col (es : List Input) (s : State) : (setInputs es s).col = s.col := rfl
@[simp] theorem setInputs_psel (es : List Input) (s : State) : (setInputs es s).psel = s.psel := rfl
@[simp] theorem setInputs_pal (es : List Input) (s : State) : (setInputs es s).pal = s.pal := rfl
@[simp] theorem setInputs_inRam (es : List Input) (s : State) : (setInputs es s).inRam = s.inRam := rfl
@[simp] theorem setInputs_outRam (es : List Input) (s : State) : (setInputs es s).outRam = s.outRam := rfl
@[simp] theorem setInputs_response (es : List Input) (s : State) : (setInputs es s).response = s.response := rfl
@[simp] theorem setInputs_unitOut (es : List Input) (s : State) : (setInputs es s).unitOut = s.unitOut := rfl
@[simp] theorem setInputs_inputs (es : List Input) (s : State) : (setInputs es s).inputs = es := rfl
@[simp] theorem setInputs_draws (es : List Input) (s : State) : (setInputs es s).draws = s.draws := rfl

@[simp] theorem setPal_busy (i : Fin 256) (e : PalEntry) (s : State) : (setPal i e s).busy = s.busy := rfl
@[simp] theorem setPal_done (i : Fin 256) (e : PalEntry) (s : State) : (setPal i e s).done = s.done := rfl
@[simp] theorem setPal_err (i : Fin 256) (e : PalEntry) (s : State) : (setPal i e s).err = s.err := rfl
@[simp] theorem setPal_errcode (i : Fin 256) (e : PalEntry) (s : State) : (setPal i e s).errcode = s.errcode := rfl
@[simp] theorem setPal_inLen (i : Fin 256) (e : PalEntry) (s : State) : (setPal i e s).inLen = s.inLen := rfl
@[simp] theorem setPal_errActual (i : Fin 256) (e : PalEntry) (s : State) : (setPal i e s).errActual = s.errActual := rfl
@[simp] theorem setPal_phase (i : Fin 256) (e : PalEntry) (s : State) : (setPal i e s).phase = s.phase := rfl
@[simp] theorem setPal_pidx (i : Fin 256) (e : PalEntry) (s : State) : (setPal i e s).pidx = s.pidx := rfl
@[simp] theorem setPal_row (i : Fin 256) (e : PalEntry) (s : State) : (setPal i e s).row = s.row := rfl
@[simp] theorem setPal_col (i : Fin 256) (e : PalEntry) (s : State) : (setPal i e s).col = s.col := rfl
@[simp] theorem setPal_psel (i : Fin 256) (e : PalEntry) (s : State) : (setPal i e s).psel = s.psel := rfl
@[simp] theorem setPal_pal (i : Fin 256) (e : PalEntry) (s : State) : (setPal i e s).pal = s.pal.set i.val e i.isLt := rfl
@[simp] theorem setPal_inRam (i : Fin 256) (e : PalEntry) (s : State) : (setPal i e s).inRam = s.inRam := rfl
@[simp] theorem setPal_outRam (i : Fin 256) (e : PalEntry) (s : State) : (setPal i e s).outRam = s.outRam := rfl
@[simp] theorem setPal_response (i : Fin 256) (e : PalEntry) (s : State) : (setPal i e s).response = s.response := rfl
@[simp] theorem setPal_unitOut (i : Fin 256) (e : PalEntry) (s : State) : (setPal i e s).unitOut = s.unitOut := rfl
@[simp] theorem setPal_inputs (i : Fin 256) (e : PalEntry) (s : State) : (setPal i e s).inputs = s.inputs := rfl
@[simp] theorem setPal_draws (i : Fin 256) (e : PalEntry) (s : State) : (setPal i e s).draws = s.draws := rfl

@[simp] theorem clearRecord_busy (s : State) : (clearRecord s).busy = s.busy := rfl
@[simp] theorem clearRecord_done (s : State) : (clearRecord s).done = false := rfl
@[simp] theorem clearRecord_err (s : State) : (clearRecord s).err = false := rfl
@[simp] theorem clearRecord_errcode (s : State) : (clearRecord s).errcode = 0#4 := rfl
@[simp] theorem clearRecord_inLen (s : State) : (clearRecord s).inLen = s.inLen := rfl
@[simp] theorem clearRecord_errActual (s : State) : (clearRecord s).errActual = 0#32 := rfl
@[simp] theorem clearRecord_phase (s : State) : (clearRecord s).phase = s.phase := rfl
@[simp] theorem clearRecord_pidx (s : State) : (clearRecord s).pidx = s.pidx := rfl
@[simp] theorem clearRecord_row (s : State) : (clearRecord s).row = s.row := rfl
@[simp] theorem clearRecord_col (s : State) : (clearRecord s).col = s.col := rfl
@[simp] theorem clearRecord_psel (s : State) : (clearRecord s).psel = s.psel := rfl
@[simp] theorem clearRecord_pal (s : State) : (clearRecord s).pal = s.pal := rfl
@[simp] theorem clearRecord_inRam (s : State) : (clearRecord s).inRam = s.inRam := rfl
@[simp] theorem clearRecord_outRam (s : State) : (clearRecord s).outRam = s.outRam := rfl
@[simp] theorem clearRecord_response (s : State) : (clearRecord s).response = s.response := rfl
@[simp] theorem clearRecord_unitOut (s : State) : (clearRecord s).unitOut = s.unitOut := rfl
@[simp] theorem clearRecord_inputs (s : State) : (clearRecord s).inputs = s.inputs := rfl
@[simp] theorem clearRecord_draws (s : State) : (clearRecord s).draws = s.draws := rfl

@[simp] theorem raiseTruncatedInput_busy (v : Word) (s : State) : (raiseTruncatedInput v s).busy = s.busy := rfl
@[simp] theorem raiseTruncatedInput_done (v : Word) (s : State) : (raiseTruncatedInput v s).done = s.done := rfl
@[simp] theorem raiseTruncatedInput_err (v : Word) (s : State) : (raiseTruncatedInput v s).err = true := rfl
@[simp] theorem raiseTruncatedInput_errcode (v : Word) (s : State) : (raiseTruncatedInput v s).errcode = 1#4 := rfl
@[simp] theorem raiseTruncatedInput_inLen (v : Word) (s : State) : (raiseTruncatedInput v s).inLen = s.inLen := rfl
@[simp] theorem raiseTruncatedInput_errActual (v : Word) (s : State) : (raiseTruncatedInput v s).errActual = v := rfl
@[simp] theorem raiseTruncatedInput_phase (v : Word) (s : State) : (raiseTruncatedInput v s).phase = s.phase := rfl
@[simp] theorem raiseTruncatedInput_pidx (v : Word) (s : State) : (raiseTruncatedInput v s).pidx = s.pidx := rfl
@[simp] theorem raiseTruncatedInput_row (v : Word) (s : State) : (raiseTruncatedInput v s).row = s.row := rfl
@[simp] theorem raiseTruncatedInput_col (v : Word) (s : State) : (raiseTruncatedInput v s).col = s.col := rfl
@[simp] theorem raiseTruncatedInput_psel (v : Word) (s : State) : (raiseTruncatedInput v s).psel = s.psel := rfl
@[simp] theorem raiseTruncatedInput_pal (v : Word) (s : State) : (raiseTruncatedInput v s).pal = s.pal := rfl
@[simp] theorem raiseTruncatedInput_inRam (v : Word) (s : State) : (raiseTruncatedInput v s).inRam = s.inRam := rfl
@[simp] theorem raiseTruncatedInput_outRam (v : Word) (s : State) : (raiseTruncatedInput v s).outRam = s.outRam := rfl
@[simp] theorem raiseTruncatedInput_response (v : Word) (s : State) : (raiseTruncatedInput v s).response = s.response := rfl
@[simp] theorem raiseTruncatedInput_unitOut (v : Word) (s : State) : (raiseTruncatedInput v s).unitOut = s.unitOut := rfl
@[simp] theorem raiseTruncatedInput_inputs (v : Word) (s : State) : (raiseTruncatedInput v s).inputs = s.inputs := rfl
@[simp] theorem raiseTruncatedInput_draws (v : Word) (s : State) : (raiseTruncatedInput v s).draws = s.draws := rfl

@[simp] theorem startEngine_busy (s : State) : (startEngine s).busy = true := rfl
@[simp] theorem startEngine_done (s : State) : (startEngine s).done = s.done := rfl
@[simp] theorem startEngine_err (s : State) : (startEngine s).err = s.err := rfl
@[simp] theorem startEngine_errcode (s : State) : (startEngine s).errcode = s.errcode := rfl
@[simp] theorem startEngine_inLen (s : State) : (startEngine s).inLen = s.inLen := rfl
@[simp] theorem startEngine_errActual (s : State) : (startEngine s).errActual = s.errActual := rfl
@[simp] theorem startEngine_phase (s : State) : (startEngine s).phase = .palLoad := rfl
@[simp] theorem startEngine_pidx (s : State) : (startEngine s).pidx = 0#8 := rfl
@[simp] theorem startEngine_row (s : State) : (startEngine s).row = 0#8 := rfl
@[simp] theorem startEngine_col (s : State) : (startEngine s).col = 0#8 := rfl
@[simp] theorem startEngine_psel (s : State) : (startEngine s).psel = s.psel := rfl
@[simp] theorem startEngine_pal (s : State) : (startEngine s).pal = s.pal := rfl
@[simp] theorem startEngine_inRam (s : State) : (startEngine s).inRam = s.inRam := rfl
@[simp] theorem startEngine_outRam (s : State) : (startEngine s).outRam = s.outRam := rfl
@[simp] theorem startEngine_response (s : State) : (startEngine s).response = s.response := rfl
@[simp] theorem startEngine_unitOut (s : State) : (startEngine s).unitOut = s.unitOut := rfl
@[simp] theorem startEngine_inputs (s : State) : (startEngine s).inputs = s.inputs := rfl
@[simp] theorem startEngine_draws (s : State) : (startEngine s).draws = s.draws := rfl

@[simp] theorem finishDecode_busy (s : State) : (finishDecode s).busy = false := rfl
@[simp] theorem finishDecode_done (s : State) : (finishDecode s).done = true := rfl
@[simp] theorem finishDecode_err (s : State) : (finishDecode s).err = s.err := rfl
@[simp] theorem finishDecode_errcode (s : State) : (finishDecode s).errcode = s.errcode := rfl
@[simp] theorem finishDecode_inLen (s : State) : (finishDecode s).inLen = s.inLen := rfl
@[simp] theorem finishDecode_errActual (s : State) : (finishDecode s).errActual = s.errActual := rfl
@[simp] theorem finishDecode_phase (s : State) : (finishDecode s).phase = .idle := rfl
@[simp] theorem finishDecode_pidx (s : State) : (finishDecode s).pidx = s.pidx := rfl
@[simp] theorem finishDecode_row (s : State) : (finishDecode s).row = 0#8 := rfl
@[simp] theorem finishDecode_col (s : State) : (finishDecode s).col = s.col := rfl
@[simp] theorem finishDecode_psel (s : State) : (finishDecode s).psel = s.psel := rfl
@[simp] theorem finishDecode_pal (s : State) : (finishDecode s).pal = s.pal := rfl
@[simp] theorem finishDecode_inRam (s : State) : (finishDecode s).inRam = s.inRam := rfl
@[simp] theorem finishDecode_outRam (s : State) : (finishDecode s).outRam = s.outRam := rfl
@[simp] theorem finishDecode_response (s : State) : (finishDecode s).response = s.response := rfl
@[simp] theorem finishDecode_unitOut (s : State) : (finishDecode s).unitOut = s.unitOut := rfl
@[simp] theorem finishDecode_inputs (s : State) : (finishDecode s).inputs = s.inputs := rfl
@[simp] theorem finishDecode_draws (s : State) : (finishDecode s).draws = s.draws := rfl

end Sys2Proof.Machine
end

