-- ==== Sys2Proof/Laws/Engine.lean ====
section
/-! SUPPORT. What the ENGINE's shared operations do, said once. -/

namespace Sys2Proof.Machine

/-- An ENGINE read goes on exactly when the byte was written. -/
theorem engineRead_eq_next {s t : State} {a : Nat} {use : Byte → Host.Outcome State Fault Refusal}
    (h : engineRead s a use = .next t) : ∃ b, readByte s.inRam a = some b ∧ use b = .next t := by
  unfold engineRead at h
  split at h
  · next b hb => exact ⟨b, hb, h⟩
  · cases h

theorem engineRead_of_written {s : State} {a : Nat} {b : Byte} {use : Byte → Host.Outcome State Fault Refusal}
    (h : readByte s.inRam a = some b) : engineRead s a use = use b := by
  unfold engineRead; rw [h]

theorem engineRead_of_unwritten {s : State} {a : Nat} {use : Byte → Host.Outcome State Fault Refusal}
    (h : readByte s.inRam a = none) : engineRead s a use = .fault .unwrittenInput := by
  unfold engineRead; rw [h]

/-- SEQ_PAL_LOAD that answers a next state. -/
theorem execSeqPalLoad_next {s t : State} (h : execSeqPalLoad s = .next t) :
    ∃ lo hi, readByte s.inRam (palAddr (pidxPalette s.pidx) (pidxColour s.pidx)) = some lo ∧
      readByte s.inRam (palAddr (pidxPalette s.pidx) (pidxColour s.pidx) + 1) = some hi ∧
      t = advancePidx (setPal (palIndex (pidxPalette s.pidx) (pidxColour s.pidx)) (parseEntry lo hi) s) := by
  obtain ⟨lo, hlo, h⟩ := engineRead_eq_next h
  obtain ⟨hi, hhi, h⟩ := engineRead_eq_next h
  cases h
  exact ⟨lo, hi, hlo, hhi, rfl⟩

/-- SEQ_ROW_START that answers a next state. -/
theorem execSeqRowStart_next {s t : State} (h : execSeqRowStart s = .next t) :
    ∃ scb, readByte s.inRam (scbAddr s.row.toNat) = some scb ∧ t = { s with psel := loNibble scb, phase := .pixelPair } := by
  obtain ⟨b, hb, h⟩ := engineRead_eq_next h
  cases h
  exact ⟨b, hb, rfl⟩

/-- SEQ_PIXEL_PAIR that answers a next state. -/
theorem execSeqPixelPair_next {s t : State} (h : execSeqPixelPair s = .next t) :
    ∃ b, readByte s.inRam (pixAddr s.row.toNat s.col.toNat) = some b ∧ t = advancePosition (packPair b s) := by
  obtain ⟨b, hb, h⟩ := engineRead_eq_next h
  cases h
  exact ⟨b, hb, rfl⟩

theorem hiNibble_toNat (b : Byte) : (hiNibble b).toNat = b.toNat / 16 := by
  have := b.isLt
  simp only [hiNibble, BitVec.extractLsb'_toNat, Nat.shiftRight_eq_div_pow]
  omega

theorem loNibble_toNat (b : Byte) : (loNibble b).toNat = b.toNat % 16 := by
  have := b.isLt
  simp only [loNibble, BitVec.extractLsb'_toNat, Nat.shiftRight_eq_div_pow]
  omega

theorem colourWord_toNat (lo hi : Byte) : (colourWord lo hi).toNat = lo.toNat + 256 * hi.toNat := by
  simp only [colourWord, BitVec.toNat_append]
  rw [← Nat.shiftLeft_add_eq_or_of_lt lo.isLt, Nat.shiftLeft_eq]
  omega

/-- The entry looked up stands at 16p + c. -/
theorem lookup_getElem? (s : State) (p c : Nibble) : s.pal[16 * p.toNat + c.toNat]? = some (lookup s p c) := by
  have := p.isLt; have := c.isLt
  rw [Vector.getElem?_eq_getElem (by omega)]
  rfl

/-- PAL_ADDR of entry PIDX. -/
theorem palAddr_pidx (p : BitVec 8) : palAddr (pidxPalette p) (pidxColour p) = 32256 + 2 * p.toNat := by
  simp only [palAddr, Config.palBase, Config.palStride, pidxPalette, pidxColour, BitVec.extractLsb'_toNat,
    Nat.shiftRight_eq_div_pow]
  have := p.isLt
  omega

/-- The PAL entry number of PIDX is PIDX. -/
theorem palIndex_pidx (p : BitVec 8) : (palIndex (pidxPalette p) (pidxColour p)).val = p.toNat := by
  simp only [palIndex, pidxPalette, pidxColour, BitVec.extractLsb'_toNat, Nat.shiftRight_eq_div_pow]
  have := p.isLt
  omega

/-- A palette and colour are those of their entry number. -/
theorem palIndex_inj {p c p' c' : Nibble} (h : (palIndex p c).val = (palIndex p' c').val) : p = p' ∧ c = c' := by
  simp only [palIndex] at h
  have := p.isLt; have := c.isLt; have := p'.isLt; have := c'.isLt
  exact ⟨BitVec.eq_of_toNat_eq (by omega), BitVec.eq_of_toNat_eq (by omega)⟩

/-- Looking up the entry just written, or another one. -/
theorem lookup_setPal (i : Fin 256) (e : PalEntry) (s : State) (p c : Nibble) :
    lookup (setPal i e s) p c = if i.val = (palIndex p c).val then e else lookup s p c := by
  simp only [lookup, setPal, Fin.getElem_fin, Vector.getElem_set]

/-- The pixel bytes an output position holds after it is packed. -/
theorem readByte_packPixel_inside (y x : Nat) (e : PalEntry) (s : State) {k : Nat} (h : k < 4) :
    readByte (packPixel y x e s).outRam (outAddr y x + k) = (pixelBytes e.r4 e.g4 e.b4)[k]? := by
  have h' : k < (pixelBytes e.r4 e.g4 e.b4).length := h
  rw [List.getElem?_eq_getElem h']
  exact readByte_storeBytes_inside _ _ _ h'

/-- Bytes of other pixels stay. -/
theorem readByte_packPixel_outside (y x : Nat) (e : PalEntry) (s : State) {b : Nat}
    (h : b < outAddr y x ∨ outAddr y x + 4 ≤ b) : readByte (packPixel y x e s).outRam b = readByte s.outRam b :=
  readByte_storeBytes_outside _ _ _ h

theorem packPixel_wf {y x : Nat} {e : PalEntry} {s : State} (h : Memory.wf s.outRam = true) :
    Memory.wf (packPixel y x e s).outRam = true := storeBytes_wf _ _ h

theorem packPixel_inBounds {y x : Nat} {e : PalEntry} {s : State} (hy : y < 200) (hx : x < 320)
    (h : inBounds Config.outSize s.outRam = true) : inBounds Config.outSize (packPixel y x e s).outRam = true := by
  refine storeBytes_inBounds ?_ h
  simp only [outAddr, pixelBytes, List.length_cons, List.length_nil, Config.outSize, Config.bytesPerPixel, Config.width]
  omega

/-- Packing a pixel changes OUT_RAM alone. -/
theorem packPixel_eq (y x : Nat) (e : PalEntry) (s : State) :
    packPixel y x e s = { s with outRam := storeBytes s.outRam (outAddr y x) (pixelBytes e.r4 e.g4 e.b4) } := rfl

/-- Packing a byte's two pixels changes OUT_RAM alone. -/
theorem packPair_eq (b : Byte) (s : State) : packPair b s = { s with outRam := (packPair b s).outRam } := rfl

end Sys2Proof.Machine
end

