-- ==== Sys2Proof/Laws/TableRow.lean ====
section
/-! SUPPORT. The masks of the BUS_TXN rows of spec/opcode_table.json as arithmetic on keys. -/

namespace Sys2Proof

open Sys2Proof.Machine

/-- A mask of k ones shifted left by s picks out those k bits. -/
theorem and_shifted_mask (x k s : Nat) : x &&& ((2 ^ k - 1) <<< s) = (x / 2 ^ s % 2 ^ k) * 2 ^ s := by
  rw [← Nat.shiftLeft_eq, ← Nat.shiftRight_eq_div_pow]
  apply Nat.eq_of_testBit_eq
  intro i
  simp only [Nat.testBit_and, Nat.testBit_shiftLeft, Nat.testBit_mod_two_pow, Nat.testBit_shiftRight, Nat.testBit_two_pow_sub_one]
  by_cases h : s ≤ i
  · simp [h, Bool.and_comm]
  · simp [h]

theorem and_inMask (x : Nat) : x &&& 0x4F8000 = (x / 0x400000 % 2) * 0x400000 + (x / 0x8000 % 32) * 0x8000 := by
  have h : (0x4F8000 : Nat) = ((2 ^ 1 - 1) <<< 22) ||| ((2 ^ 5 - 1) <<< 15) := by decide
  rw [h, Nat.and_or_distrib_left, and_shifted_mask, and_shifted_mask]
  rw [← Nat.shiftLeft_eq _ 22, ← Nat.shiftLeft_add_eq_or_of_lt, Nat.shiftLeft_eq]
  all_goals (have := Nat.mod_lt (x / 2 ^ 15) (show 0 < 2 ^ 5 by decide); omega)

theorem and_outMask (x : Nat) : x &&& 0x4C0000 = (x / 0x400000 % 2) * 0x400000 + (x / 0x40000 % 4) * 0x40000 := by
  have h : (0x4C0000 : Nat) = ((2 ^ 1 - 1) <<< 22) ||| ((2 ^ 2 - 1) <<< 18) := by decide
  rw [h, Nat.and_or_distrib_left, and_shifted_mask, and_shifted_mask]
  rw [← Nat.shiftLeft_eq _ 22, ← Nat.shiftLeft_add_eq_or_of_lt, Nat.shiftLeft_eq]
  all_goals (have := Nat.mod_lt (x / 2 ^ 18) (show 0 < 2 ^ 2 by decide); omega)

theorem and_regMask (x : Nat) : x &&& 0x7FFFFF = x % 0x800000 := by
  have h : (0x7FFFFF : Nat) = ((2 ^ 23 - 1) <<< 0) := by decide
  rw [h, and_shifted_mask]; simp

/-- The IN_RD and IN_WR rows test DIR and offset bits 19:15. -/
theorem rowMatches_in (p k : Word) : rowMatches 0x4F8000#32 p k = true ↔
    (k.toNat / 0x400000 % 2) * 0x400000 + (k.toNat / 0x8000 % 32) * 0x8000 = p.toNat := by
  rw [← and_inMask, rowMatches, decide_eq_true_eq, ← BitVec.toNat_inj, BitVec.toNat_and]; rfl

/-- The OUT_RD and OUT_WR rows test DIR and offset bits 19:18. -/
theorem rowMatches_out (p k : Word) : rowMatches 0x4C0000#32 p k = true ↔
    (k.toNat / 0x400000 % 2) * 0x400000 + (k.toNat / 0x40000 % 4) * 0x40000 = p.toNat := by
  rw [← and_outMask, rowMatches, decide_eq_true_eq, ← BitVec.toNat_inj, BitVec.toNat_and]; rfl

/-- The register rows test the whole key. -/
theorem rowMatches_reg (p k : Word) : rowMatches 0x7FFFFF#32 p k = true ↔ k.toNat % 0x800000 = p.toNat := by
  rw [← and_regMask, rowMatches, decide_eq_true_eq, ← BitVec.toNat_inj, BitVec.toNat_and]; rfl

/-- The key of an input access matches the input row of its direction. -/
theorem inRow_matches (dir : Dir) {n : Width} {a : Offset} (h : passesIn .inRam n a = true) :
    rowMatches 0x4F8000#32 (match dir with | .rd => 0x000000#32 | .wr => 0x400000#32) (txnKey dir n a) = true := by
  have hb := passesIn_bounds h
  have hn := nBytes_pos n
  simp only [regionBase, regionSize, Config.inSize] at hb
  rw [rowMatches_in, txnKey_toNat]
  cases dir <;> cases n <;> simp only [dirCode, widthCode, BitVec.toNat_ofNat] <;> omega

/-- The key of an output access matches the output row of its direction. -/
theorem outRow_matches (dir : Dir) {n : Width} {a : Offset} (h : passesIn .outRam n a = true) :
    rowMatches 0x4C0000#32 (match dir with | .rd => 0x040000#32 | .wr => 0x440000#32) (txnKey dir n a) = true := by
  have hb := passesIn_bounds h
  have hn := nBytes_pos n
  simp only [regionBase, regionSize, Config.outBase, Config.outSize] at hb
  rw [rowMatches_out, txnKey_toNat]
  cases dir <;> cases n <;> simp only [dirCode, widthCode, BitVec.toNat_ofNat] <;> omega

end Sys2Proof
end

