-- ==== Sys2Proof/Laws/PerInstr.lean ====
section
/-! SUPPORT. Per operation: its encoding fits its format's length, and a bus transaction's key matches the operation's row of
spec/opcode_table.json (30_encoding.md R52, R58, R61). -/

namespace Sys2Proof.Laws

open Sys2Proof.Machine

/-- The encoded word fits the format's length, and a BUS_TXN key matches the operation's row. -/
def EncodingMatchesItsRow.Statement (i : Instr) : Prop :=
  WellFormed i = true → (encode i).word.toNat < formatLimit (encode i).format ∧
    ∀ mask pattern, busRow i = some (mask, pattern) → rowMatches mask pattern (encode i).word = true

/-- An operation that is no bus transaction. -/
theorem rowless {i : Instr} (hb : busRow i = none) (h : (encode i).word.toNat < formatLimit (encode i).format) :
    EncodingMatchesItsRow.Statement i := by
  intro _
  refine ⟨h, fun mask pattern hr => ?_⟩
  rw [hb] at hr
  cases hr

/-- A bus transaction. -/
theorem keyed {i : Instr} {dir : Dir} {n : Width} {a : Offset} {v : Word} {m p : Word} (he : encode i = encodeTxn dir n a v)
    (hb : busRow i = some (m, p)) (h : WellFormed i = true → rowMatches m p (txnKey dir n a) = true) :
    EncodingMatchesItsRow.Statement i := by
  intro hw
  rw [he]
  refine ⟨txnKey_fits dir n a, fun mask pattern hr => ?_⟩
  rw [hb] at hr
  cases hr
  exact h hw

/-- A word of fewer bits keeps its value at 32. -/
theorem setWidth_lt {k : Nat} (w : BitVec k) {limit : Nat} (h : 2 ^ k ≤ limit) : (w.setWidth 32).toNat < limit := by
  rw [BitVec.toNat_setWidth]
  exact (Nat.mod_le _ _).trans_lt (w.isLt.trans_le h)


theorem EncodingMatchesItsRow.seqIdle : EncodingMatchesItsRow.Statement .seqIdle :=
  rowless rfl (by decide)

theorem EncodingMatchesItsRow.seqPalLoad : EncodingMatchesItsRow.Statement .seqPalLoad :=
  rowless rfl (by decide)

theorem EncodingMatchesItsRow.seqRowStart : EncodingMatchesItsRow.Statement .seqRowStart :=
  rowless rfl (by decide)

theorem EncodingMatchesItsRow.seqPixelPair : EncodingMatchesItsRow.Statement .seqPixelPair :=
  rowless rfl (by decide)

theorem EncodingMatchesItsRow.decodeCmd : EncodingMatchesItsRow.Statement .decodeCmd :=
  rowless rfl (by decide)

theorem EncodingMatchesItsRow.ctrlNop : EncodingMatchesItsRow.Statement .ctrlNop :=
  rowless rfl (by decide)

theorem EncodingMatchesItsRow.inRd (n : Width) (a : Offset) : EncodingMatchesItsRow.Statement (.inRd n a) :=
  keyed rfl rfl fun h => inRow_matches .rd h

theorem EncodingMatchesItsRow.inWr (n : Width) (a : Offset) (v : Word) : EncodingMatchesItsRow.Statement (.inWr n a v) :=
  keyed rfl rfl fun h => inRow_matches .wr (by simp only [WellFormed, Bool.and_eq_true] at h; exact h.1)

theorem EncodingMatchesItsRow.outRd (n : Width) (a : Offset) : EncodingMatchesItsRow.Statement (.outRd n a) :=
  keyed rfl rfl fun h => outRow_matches .rd h

theorem EncodingMatchesItsRow.outWr (n : Width) (a : Offset) (v : Word) : EncodingMatchesItsRow.Statement (.outWr n a v) :=
  keyed rfl rfl fun h => outRow_matches .wr (by simp only [WellFormed, Bool.and_eq_true] at h; exact h.1)

theorem EncodingMatchesItsRow.ctrlRd : EncodingMatchesItsRow.Statement .ctrlRd :=
  keyed rfl rfl fun _ => by decide

theorem EncodingMatchesItsRow.ctrlWr (d : Word) : EncodingMatchesItsRow.Statement (.ctrlWr d) :=
  keyed rfl rfl fun _ => by decide

theorem EncodingMatchesItsRow.statusRd : EncodingMatchesItsRow.Statement .statusRd :=
  keyed rfl rfl fun _ => by decide

theorem EncodingMatchesItsRow.statusWr (d : Word) : EncodingMatchesItsRow.Statement (.statusWr d) :=
  keyed rfl rfl fun _ => by decide

theorem EncodingMatchesItsRow.inLenRd : EncodingMatchesItsRow.Statement .inLenRd :=
  keyed rfl rfl fun _ => by decide

theorem EncodingMatchesItsRow.inLenWr (d : Word) : EncodingMatchesItsRow.Statement (.inLenWr d) :=
  keyed rfl rfl fun _ => by decide

theorem EncodingMatchesItsRow.errRequiredRd : EncodingMatchesItsRow.Statement .errRequiredRd :=
  keyed rfl rfl fun _ => by decide

theorem EncodingMatchesItsRow.errRequiredWr (d : Word) : EncodingMatchesItsRow.Statement (.errRequiredWr d) :=
  keyed rfl rfl fun _ => by decide

theorem EncodingMatchesItsRow.errActualRd : EncodingMatchesItsRow.Statement .errActualRd :=
  keyed rfl rfl fun _ => by decide

theorem EncodingMatchesItsRow.errActualWr (d : Word) : EncodingMatchesItsRow.Statement (.errActualWr d) :=
  keyed rfl rfl fun _ => by decide

theorem EncodingMatchesItsRow.busFault (dir : Dir) (n : Width) (a : Offset) (v : Word) : EncodingMatchesItsRow.Statement (.busFault dir n a v) :=
  keyed rfl rfl fun _ => by simp [rowMatches]

theorem EncodingMatchesItsRow.paletteWordParse (lo hi : Byte) : EncodingMatchesItsRow.Statement (.paletteWordParse lo hi) :=
  rowless rfl (setWidth_lt _ (Nat.le_refl _))

theorem EncodingMatchesItsRow.scbSelect (scb : Byte) : EncodingMatchesItsRow.Statement (.scbSelect scb) :=
  rowless rfl (setWidth_lt _ (Nat.le_refl _))

theorem EncodingMatchesItsRow.pixelSplit (b : Byte) : EncodingMatchesItsRow.Statement (.pixelSplit b) :=
  rowless rfl (setWidth_lt _ (Nat.le_refl _))

theorem EncodingMatchesItsRow.paletteLookup (psel idx : Nibble) : EncodingMatchesItsRow.Statement (.paletteLookup psel idx) :=
  rowless rfl (setWidth_lt _ (Nat.le_refl _))

theorem EncodingMatchesItsRow.channelExpand (v : Nibble) : EncodingMatchesItsRow.Statement (.channelExpand v) :=
  rowless rfl (setWidth_lt _ (Nat.le_refl _))

theorem EncodingMatchesItsRow.rgbaPack (y : BitVec 8) (x : BitVec 9) (r4 g4 b4 : Nibble) : EncodingMatchesItsRow.Statement (.rgbaPack y x r4 g4 b4) :=
  rowless rfl (BitVec.ofNat 32 (leValue (pixelBytes r4 g4 b4))).isLt

end Sys2Proof.Laws
end

