-- ==== Sys2Proof/Laws/Step.lean ====
section
/-! SUPPORT. What a step can do, said once: which operation it runs, on which state, and where that operation comes from. -/

namespace Sys2Proof.Machine

/-- The ENGINE step of a PHASE. -/
def engineInstr : Phase → Instr
  | .idle => .seqIdle
  | .palLoad => .seqPalLoad
  | .rowStart => .seqRowStart
  | .pixelPair => .seqPixelPair

theorem decode_phaseCode (p : Phase) : decode ⟨.seqPhase, phaseCode p, 0#32⟩ = .ok (engineInstr p) := by
  cases p <;> rfl

/-- The state an operation runs on: the inputs that are left, and the free-value key used up unless it is a read. -/
def prepared (i : Instr) (es : List Input) (s : State) : State :=
  if keepsDraws i then setInputs es s else tick (setInputs es s)

/-- `prepared` changes the model's own fields alone. -/
theorem prepared_eq (i : Instr) (es : List Input) (s : State) :
    ∃ n, prepared i es s = { s with inputs := es, draws := n } := by
  unfold prepared
  split
  · exact ⟨s.draws, rfl⟩
  · exact ⟨s.draws + 1, rfl⟩

theorem issue_ok {op : OpWord} {i : Instr} (es : List Input) (s : State) (h : decode op = .ok i) :
    issue op (setInputs es s) = .run i (prepared i es s) := by
  simp only [issue, h, prepared]

/-- The operation the ENGINE runs in a state: SEQ_IDLE unless BUSY = 1. -/
def engineTurn (s : State) : Instr := if s.busy then engineInstr s.phase else .seqIdle

theorem decode_engineWord (s : State) : decode (engineWord s) = .ok (engineTurn s) := by
  unfold engineWord engineTurn
  cases s.busy
  · exact decode_phaseCode .idle
  · exact decode_phaseCode s.phase

theorem step_bus {s : State} {key v : Word} {i : Instr} {es : List Input} (hs : s.inputs = .bus key v :: es)
    (hd : decode ⟨.busTxn, key, v⟩ = .ok i) : step s = exec i (prepared i es s) := by
  unfold step fetch; simp only [hs, issue_ok _ _ hd]

theorem step_engine {s : State} {es : List Input} (hs : s.inputs = .engine :: es) :
    step s = exec (engineTurn s) (prepared (engineTurn s) es s) := by
  unfold step fetch; simp only [hs, issue_ok _ _ (decode_engineWord s)]

/-- With no input left it is the ENGINE's turn. -/
theorem step_empty {s : State} (hs : s.inputs = []) : step s = exec (engineTurn s) (prepared (engineTurn s) [] s) := by
  unfold step fetch
  have h : setInputs [] s = s := by cases s; simp_all [setInputs]
  have h' := issue_ok [] s (decode_engineWord s)
  rw [h] at h'
  simp only [hs, h']

theorem step_unit {s : State} {op : OpWord} {i : Instr} {es : List Input} (hs : s.inputs = .unit op :: es)
    (hu : isUnitFormat op.format = true) (hd : decode op = .ok i) : step s = exec i (prepared i es s) := by
  unfold step fetch; simp only [hs, hu, if_true, issue_ok _ _ hd]

theorem step_reset {s : State} {es : List Input} (hs : s.inputs = .reset :: es) :
    step s = .next (applyReset (setInputs es s)) := by
  unfold step fetch; simp only [hs]

/-- Where the operation of a step comes from, and the inputs that are left after it. -/
inductive Issued (s : State) : Instr → List Input → Prop where
  | bus (key v : Word) (i : Instr) (es : List Input) (hs : s.inputs = .bus key v :: es)
      (hd : decode ⟨.busTxn, key, v⟩ = .ok i) : Issued s i es
  | unit (op : OpWord) (i : Instr) (es : List Input) (hs : s.inputs = .unit op :: es)
      (hu : isUnitFormat (encode i).format = true) : Issued s i es
  | engine (i : Instr) (es : List Input) (hs : s.inputs = .engine :: es ∨ s.inputs = [] ∧ es = []) (hi : i = engineTurn s) :
      Issued s i es

/-- Everything a step that answers a next state can do. -/
theorem step_cases {s t : State} (h : step s = .next t) :
    (∃ es, s.inputs = .reset :: es ∧ t = applyReset (setInputs es s)) ∨
    ∃ i es, Issued s i es ∧ exec i (prepared i es s) = .next t := by
  cases hs : s.inputs with
  | nil => exact .inr ⟨_, _, .engine _ [] (.inr ⟨hs, rfl⟩) rfl, (step_empty hs).symm.trans h⟩
  | cons e es =>
    cases e with
    | engine => exact .inr ⟨_, _, .engine _ es (.inl hs) rfl, (step_engine hs).symm.trans h⟩
    | reset => exact .inl ⟨es, rfl, by rw [step_reset hs] at h; cases h; rfl⟩
    | bus key v =>
      cases hd : decode ⟨.busTxn, key, v⟩ with
      | ok i => exact .inr ⟨i, es, .bus key v i es hs hd, (step_bus hs hd).symm.trans h⟩
      | error e => unfold step fetch at h; simp only [hs, issue, hd, reduceCtorEq] at h
    | unit op =>
      cases hd : decode op with
      | ok i =>
        cases hu : isUnitFormat op.format with
        | true => exact .inr ⟨i, es, .unit op i es hs (format_of_decode hd ▸ hu), (step_unit hs hu hd).symm.trans h⟩
        | false => unfold step fetch at h; simp only [hs, hu, Bool.false_eq_true, if_false, reduceCtorEq] at h
      | error e =>
        unfold step fetch at h
        cases hu : isUnitFormat op.format <;>
          simp only [hs, hu, issue, hd, Bool.false_eq_true, if_false, if_true, reduceCtorEq] at h

/-- A run of k + 1 steps is a step and a run of k, on any machine. -/
theorem coreRun_succ (M : Host.Core) {s t : M.State} (k : Nat) (h : M.step s = .next t) : M.run (k + 1) s = M.run k t := by
  simp only [Host.Core.run, h]

/-- A run of k + 1 steps of the block is a step and a run of k. -/
theorem run_succ_of_step {s t : State} (k : Nat) (h : step s = .next t) :
    Host.Core.run Sys2Proof.core (k + 1) s = Host.Core.run Sys2Proof.core k t :=
  coreRun_succ Sys2Proof.core k h

end Sys2Proof.Machine
end

