-- ==== Sys2Proof/Tests/Slice0.lean ====
section
/-! SUPPORT. The model's own tests: ill-formed terms refused, words written out from 30_encoding.md, single steps from
95_test_vectors.md, and for every obligation with hypotheses a concrete case that meets them. -/

namespace Sys2Proof.Tests

open Sys2Proof.Machine Sys2Proof.Safety

/-! ### Helpers -/

/-- A field of the next state. -/
def after {α : Type} (o : Host.Outcome State Fault Refusal) (f : State → α) : Option α :=
  match o with
  | .next s => some (f s)
  | .fault _ => none
  | .refused _ => none

/-- The fault of an outcome. -/
def faultOf (o : Host.Outcome State Fault Refusal) : Option Fault :=
  match o with
  | .next _ => none
  | .fault f => some f
  | .refused _ => none

/-- A busy ENGINE at a position. -/
def busyAt (p : Phase) (pidx row col : BitVec 8) : State :=
  { State.reset with busy := true, phase := p, pidx := pidx, row := row, col := col }

/-- A memory with the first n bytes written. -/
def full (n : Nat) (f : Nat → Byte) : Memory := (List.range' 0 n).map fun i => (i, f i)

/-- An input of zeros, every byte written. -/
def zeroIn : Memory := full 32768 fun _ => 0#8

theorem readByte_listed (f : Nat → Byte) (lo n i : Nat) (h : lo ≤ i) (h' : i < lo + n) :
    readByte ((List.range' lo n).map fun i => (i, f i)) i = some (f i) := by
  induction n generalizing lo with
  | zero => omega
  | succ n ih =>
    simp only [List.range'_succ, List.map_cons, readByte]
    by_cases hi : i = lo
    · rw [if_pos hi, hi]
    · rw [if_neg hi]; exact ih (lo + 1) (by omega) (by omega)

theorem rising_listed (f : Nat → Byte) (lo n : Nat) : risingFrom lo ((List.range' lo n).map fun i => (i, f i)) = true := by
  induction n generalizing lo with
  | zero => rfl
  | succ n ih => simp only [List.range'_succ, List.map_cons, risingFrom, le_refl, decide_true, Bool.true_and]; exact ih (lo + 1)

theorem readByte_full {f : Nat → Byte} {n i : Nat} (h : i < n) : readByte (full n f) i = some (f i) :=
  readByte_listed f 0 n i (Nat.zero_le _) (by omega)

theorem full_wf (f : Nat → Byte) (n : Nat) : Memory.wf (full n f) = true := (wf_iff_rising _).mpr (rising_listed f 0 n)

theorem full_inBounds {f : Nat → Byte} {n size : Nat} (h : n ≤ size) : inBounds size (full n f) = true := by
  simp only [inBounds, full, List.all_eq_true, List.mem_map, List.mem_range'_1, decide_eq_true_eq]
  rintro c ⟨i, hi, rfl⟩
  simp only
  omega

theorem zeroIn_written : inputWritten zeroIn := by
  intro i hi
  rw [zeroIn, readByte_full (by omega)]
  rfl

theorem bytesOf_zeroIn (i : Nat) (h : i < 32768) : bytesOf zeroIn i = 0#8 := by
  rw [bytesOf, zeroIn, readByte_full h]
  rfl

/-! ### WellFormed: one ill-formed term for each check, and a term it accepts -/

theorem test_wf_inRd_other_region : WellFormed (.inRd .four 0x40000#20) = false := by decide
theorem test_wf_inRd_misaligned : WellFormed (.inRd .two 0x00001#20) = false := by decide
theorem test_wf_inWr_data_too_wide : WellFormed (.inWr .one 0x00000#20 0x100#32) = false := by decide
theorem test_wf_inWr_other_region : WellFormed (.inWr .four 0x08008#20 0#32) = false := by decide
theorem test_wf_outRd_past_end : WellFormed (.outRd .one 0x7E800#20) = false := by decide
theorem test_wf_outWr_data_too_wide : WellFormed (.outWr .two 0x40000#20 0x10000#32) = false := by decide
theorem test_wf_outWr_misaligned : WellFormed (.outWr .four 0x40002#20 0#32) = false := by decide
theorem test_wf_busFault_passes : WellFormed (.busFault .rd .four 0x08010#20 0#32) = false := by decide
theorem test_wf_busFault_read_with_data : WellFormed (.busFault .rd .four 0x08014#20 1#32) = false := by decide
theorem test_wf_busFault_data_too_wide : WellFormed (.busFault .wr .one 0x08000#20 0x100#32) = false := by decide
theorem test_wf_rgbaPack_row : WellFormed (.rgbaPack 200#8 0#9 0#4 0#4 0#4) = false := by decide
theorem test_wf_rgbaPack_column : WellFormed (.rgbaPack 0#8 320#9 0#4 0#4 0#4) = false := by decide
theorem test_wf_accepts : WellFormed (.inWr .two 0x07E00#20 0x0F00#32) = true ∧ WellFormed (.outRd .one 0x7E7FF#20) = true ∧
    WellFormed (.rgbaPack 199#8 319#9 15#4 10#4 5#4) = true ∧ WellFormed (.busFault .wr .two 0x08004#20 0xFFFF#32) = true := by
  decide

/-! ### Decoding: one word per operation, written out from 30_encoding.md R53 to R60 -/

theorem test_decode_seq : decode ⟨.seqPhase, 0b00#32, 0#32⟩ = .ok .seqIdle ∧ decode ⟨.seqPhase, 0b01#32, 0#32⟩ = .ok .seqPalLoad ∧
    decode ⟨.seqPhase, 0b10#32, 0#32⟩ = .ok .seqRowStart ∧ decode ⟨.seqPhase, 0b11#32, 0#32⟩ = .ok .seqPixelPair := by decide
theorem test_decode_ctrl : decode ⟨.ctrlWord, 0b1#32, 0#32⟩ = .ok .decodeCmd ∧ decode ⟨.ctrlWord, 0b0#32, 0#32⟩ = .ok .ctrlNop := by
  decide
/-- KEY = DIR, WCODE, OFFSET: RD, n = 1, 0x07FFF. -/
theorem test_decode_inRd : decode ⟨.busTxn, 0b0_00_00000111111111111111#32, 0#32⟩ = .ok (.inRd .one 0x07FFF#20) := by decide
/-- WR, n = 4, 0x07D00. -/
theorem test_decode_inWr :
    decode ⟨.busTxn, 0b1_10_00000111110100000000#32, 0x03020100#32⟩ = .ok (.inWr .four 0x07D00#20 0x03020100#32) := by decide
/-- RD, n = 2, 0x7E7FE. -/
theorem test_decode_outRd : decode ⟨.busTxn, 0b0_01_01111110011111111110#32, 0#32⟩ = .ok (.outRd .two 0x7E7FE#20) := by decide
/-- WR, n = 4, 0x40000. -/
theorem test_decode_outWr :
    decode ⟨.busTxn, 0b1_10_01000000000000000000#32, 0xDEADBEEF#32⟩ = .ok (.outWr .four 0x40000#20 0xDEADBEEF#32) := by decide
/-- RD, n = 4, 0x08000 to 0x08010. -/
theorem test_decode_register_reads : decode ⟨.busTxn, 0b0_10_00001000000000000000#32, 0#32⟩ = .ok .ctrlRd ∧
    decode ⟨.busTxn, 0b0_10_00001000000000000100#32, 0#32⟩ = .ok .statusRd ∧
    decode ⟨.busTxn, 0b0_10_00001000000000001000#32, 0#32⟩ = .ok .inLenRd ∧
    decode ⟨.busTxn, 0b0_10_00001000000000001100#32, 0#32⟩ = .ok .errRequiredRd ∧
    decode ⟨.busTxn, 0b0_10_00001000000000010000#32, 0#32⟩ = .ok .errActualRd := by decide
/-- WR, n = 4, 0x08000 to 0x08010. -/
theorem test_decode_register_writes : decode ⟨.busTxn, 0b1_10_00001000000000000000#32, 1#32⟩ = .ok (.ctrlWr 1#32) ∧
    decode ⟨.busTxn, 0b1_10_00001000000000000100#32, 2#32⟩ = .ok (.statusWr 2#32) ∧
    decode ⟨.busTxn, 0b1_10_00001000000000001000#32, 3#32⟩ = .ok (.inLenWr 3#32) ∧
    decode ⟨.busTxn, 0b1_10_00001000000000001100#32, 4#32⟩ = .ok (.errRequiredWr 4#32) ∧
    decode ⟨.busTxn, 0b1_10_00001000000000010000#32, 5#32⟩ = .ok (.errActualWr 5#32) := by decide
/-- WR, n = 4, 0x3FFFC: an access that fails its checks. -/
theorem test_decode_busFault :
    decode ⟨.busTxn, 0b1_10_00111111111111111100#32, 1#32⟩ = .ok (.busFault .wr .four 0x3FFFC#20 1#32) := by decide
theorem test_decode_paletteWordParse : decode ⟨.colourWord, 0b0100001100100001#32, 0#32⟩ = .ok (.paletteWordParse 0x21#8 0x43#8) := by
  decide
theorem test_decode_scbSelect : decode ⟨.scbByte, 0b11110011#32, 0#32⟩ = .ok (.scbSelect 0xF3#8) := by decide
theorem test_decode_pixelSplit : decode ⟨.pixelByte, 0b10101011#32, 0#32⟩ = .ok (.pixelSplit 0xAB#8) := by decide
theorem test_decode_paletteLookup : decode ⟨.palSelect, 0b00011010#32, 0#32⟩ = .ok (.paletteLookup 1#4 10#4) := by decide
theorem test_decode_channelExpand : decode ⟨.channel, 0b1000#32, 0#32⟩ = .ok (.channelExpand 8#4) := by decide
/-- A, B, G, R = FF 55 AA FF at OUT_ADDR(199, 319) = 255996 (95_test_vectors.md 2.6). -/
theorem test_decode_rgbaPack : decode ⟨.rgbaPixel, 0b11111111_01010101_10101010_11111111#32, 255996#32⟩ =
    .ok (.rgbaPack 199#8 319#9 15#4 10#4 5#4) := by decide
theorem test_decode_rejects : decode ⟨.busTxn, 0b0_11_00000000000000000000#32, 0#32⟩ = .error .noSuchWidth ∧
    decode ⟨.busTxn, 0x800000#32, 0#32⟩ = .error .strayBits ∧ decode ⟨.busTxn, 0x208000#32, 1#32⟩ = .error .strayData ∧
    decode ⟨.busTxn, 0x400000#32, 0x100#32⟩ = .error .dataTooWide ∧ decode ⟨.rgbaPixel, 0xFE000000#32, 0#32⟩ = .error .notOpaque ∧
    decode ⟨.rgbaPixel, 0xFF000001#32, 0#32⟩ = .error .notReplicated ∧
    decode ⟨.rgbaPixel, 0xFF000000#32, 256000#32⟩ = .error .notAPixelAddress := by decide
theorem test_decodeTableWord : decodeTableWord 2 3 = some .seqPixelPair ∧ decodeTableWord 32 1 = some .decodeCmd ∧
    decodeTableWord 23 0x208004 = some .statusRd ∧ decodeTableWord 24 0x608000 = some (.ctrlWr 0#32) ∧
    decodeTableWord 16 0x0F00 = some (.paletteWordParse 0x00#8 0x0F#8) ∧
    decodeTableWord 32 0xFF000000 = some (.rgbaPack 0#8 0#9 0#4 0#4 0#4) := by decide

/-! ### Single steps (95_test_vectors.md section 2) -/

/-- 2.5, row PIDX = 0x1A. -/
theorem test_seqPalLoad :
    let o := exec .seqPalLoad { busyAt .palLoad 0x1A#8 0#8 0#8 with inRam := [(0x7E34, 0x23#8), (0x7E35, 0x01#8)] }
    after o (fun s => (s.pidx, s.phase, s.pal[0x1A]?, s.pal[0x1B]?)) =
      some (0x1B#8, .palLoad, some ⟨1#4, 2#4, 3#4⟩, some ⟨0#4, 0#4, 0#4⟩) := by decide
/-- 2.5, row PIDX = 0xFF; 2.11, first row. -/
theorem test_seqPalLoad_last :
    after (exec .seqPalLoad { busyAt .palLoad 0xFF#8 0#8 0#8 with inRam := [(0x7FFE, 0xA5#8), (0x7FFF, 0x0F#8)] })
      (fun s => (s.pidx, s.phase, s.pal[0xFF]?)) = some (0#8, .rowStart, some ⟨15#4, 10#4, 5#4⟩) ∧
    faultOf (exec .seqPalLoad (busyAt .palLoad 0#8 0#8 0#8)) = some .unwrittenInput := by decide
/-- 43_scanline_unpack.md R86, example; 2.11, second row. -/
theorem test_seqRowStart :
    after (exec .seqRowStart { busyAt .rowStart 0#8 1#8 0#8 with inRam := [(0x7D01, 0xF1#8)] }) (fun s => (s.psel, s.phase, s.row)) =
      some (1#4, .pixelPair, 1#8) ∧
    faultOf (exec .seqRowStart (busyAt .rowStart 0#8 0#8 0#8)) = some .unwrittenInput := by decide
/-- 46_rgba_packer.md R95, example. -/
theorem test_seqPixelPair :
    let s := setPal 27 ⟨15#4, 15#4, 15#4⟩ (setPal 26 ⟨1#4, 2#4, 3#4⟩ { busyAt .pixelPair 0#8 1#8 0#8 with
      psel := 1#4, inRam := [(0x00A0, 0xAB#8)] })
    after (exec .seqPixelPair s) (fun t => (t.outRam, t.col, t.row, t.phase)) = some (
      [(0x500, 0x11#8), (0x501, 0x22#8), (0x502, 0x33#8), (0x503, 0xFF#8), (0x504, 0xFF#8), (0x505, 0xFF#8), (0x506, 0xFF#8),
       (0x507, 0xFF#8)], 1#8, 1#8, .pixelPair) := by decide
/-- 2.10, the completion step. -/
theorem test_seqPixelPair_completes :
    after (exec .seqPixelPair { busyAt .pixelPair 0#8 199#8 159#8 with inRam := [(0x7CFF, 0x00#8)] })
      (fun t => (statusWord t, t.phase, t.row, t.col, readByte t.outRam 0x3E7FF)) =
      some (0x2#32, .idle, 0#8, 0#8, some 0xFF#8) := by decide
theorem test_seqIdle : after (step State.reset) (fun s => s) = some State.reset := by rfl
/-- 2.9, rows 1 and 2. -/
theorem test_decodeCmd : after (exec .decodeCmd { State.reset with inLen := 0x7FFF#32 })
      (fun s => (statusWord s, s.errActual, s.phase)) = some (0x14#32, 0x7FFF#32, .idle) ∧
    after (exec .decodeCmd { State.reset with inLen := 0x8000#32, err := true, errcode := 1#4, errActual := 0x3E8#32 })
      (fun s => (statusWord s, s.errActual, s.phase)) = some (0x1#32, 0#32, .palLoad) := by decide
/-- 2.9, busy rows. -/
theorem test_commands_while_busy : after (exec .decodeCmd (busyAt .pixelPair 0#8 5#8 9#8)) (fun s => (s.phase, s.row, s.col)) =
      some (.pixelPair, 5#8, 9#8) ∧
    after (exec .ctrlNop (busyAt .pixelPair 0#8 5#8 9#8)) (fun s => (statusWord s, s.col)) = some (1#32, 9#8) := by decide
/-- 2.9, last two rows. -/
theorem test_ctrlWr : after (exec (.ctrlWr 0xFFFFFFFE#32) { State.reset with inLen := 0x8000#32 }) statusWord = some 0#32 ∧
    after (exec (.ctrlWr 3#32) { State.reset with inLen := 0x8000#32 }) statusWord = some 1#32 := by decide
/-- 2.8, row 1. -/
theorem test_inWr : after (exec (.inWr .four 0x07D00#20 0x03020100#32) State.reset) (fun s => s.inRam) =
    some [(0x7D00, 0x00#8), (0x7D01, 0x01#8), (0x7D02, 0x02#8), (0x7D03, 0x03#8)] ∧
    faultOf (exec (.inWr .one 0x00000#20 0x55#32) (busyAt .palLoad 0#8 0#8 0#8)) = some .hostWriteWhileBusy := by decide
/-- 2.8, row 3. -/
theorem test_inRd : after (exec (.inRd .two 0x07D02#20) { State.reset with inRam := [(0x7D02, 0x02#8), (0x7D03, 0x03#8)] })
    (fun s => s.response) = some (.readOk 0x0302#32) := by decide
/-- 2.8, row 14. -/
theorem test_outWr : after (exec (.outWr .four 0x40000#20 0xDEADBEEF#32) State.reset) (fun s => s.outRam) =
    some [(0, 0xEF#8), (1, 0xBE#8), (2, 0xAD#8), (3, 0xDE#8)] ∧
    faultOf (exec (.outWr .four 0x40000#20 0#32) (busyAt .palLoad 0#8 0#8 0#8)) = some .hostWriteWhileBusy := by decide
/-- 2.6, mixed-width read of pixel (199, 319). -/
theorem test_outRd : after (exec (.outRd .two 0x7E7FE#20) { State.reset with outRam := [(0x3E7FE, 0x55#8), (0x3E7FF, 0xFF#8)] })
    (fun s => s.response) = some (.readOk 0xFF55#32) := by decide
/-- 2.8, rows 5 to 9; 2.12, last row. -/
theorem test_register_reads :
    let s : State := { State.reset with err := true, errcode := 1#4, errActual := 0x3E8#32, inLen := 0x3E8#32 }
    (after (exec .ctrlRd s) (fun t => t.response), after (exec .statusRd s) (fun t => t.response),
      after (exec .inLenRd s) (fun t => t.response), after (exec .errRequiredRd s) (fun t => t.response),
      after (exec .errActualRd s) (fun t => t.response)) =
    (some (.readOk 0#32), some (.readOk 0x14#32), some (.readOk 0x3E8#32), some (.readOk 0x8000#32), some (.readOk 0x3E8#32)) := by
  decide
/-- 2.8, rows 10 to 13. -/
theorem test_register_writes : after (exec (.inLenWr 0x12345678#32) State.reset) (fun s => s.inLen) = some 0x12345678#32 ∧
    after (exec (.statusWr 0xFFFFFFFF#32) State.reset) statusWord = some 0#32 ∧
    after (exec (.errRequiredWr 0#32) State.reset) (regValue .errRequired) = some 0x8000#32 ∧
    after (exec (.errActualWr 5#32) State.reset) (fun s => s.errActual) = some 0#32 := by decide
/-- 2.8, the faulting accesses and the legal ones at the edges. -/
theorem test_busCheck : busCheck .four 0x07FFE#20 = some .unmapped ∧ busCheck .two 0x08004#20 = some .width ∧
    busCheck .one 0x08000#20 = some .width ∧ busCheck .four 0x08002#20 = some .misaligned ∧
    busCheck .four 0x08012#20 = some .unmapped ∧ busCheck .four 0x08014#20 = some .unmapped ∧
    busCheck .four 0x00002#20 = some .misaligned ∧ busCheck .two 0x00001#20 = some .misaligned ∧
    busCheck .four 0x3FFFC#20 = some .unmapped ∧ busCheck .four 0x3FFFE#20 = some .unmapped ∧
    busCheck .two 0x7E7FF#20 = some .unmapped ∧ busCheck .one 0x7E800#20 = some .unmapped ∧
    busCheck .four 0xFFFFC#20 = some .unmapped ∧ busCheck .four 0x7E7FC#20 = none ∧ busCheck .one 0x07FFF#20 = none ∧
    busCheck .four 0x08010#20 = none := by decide
/-- 47_host_bus.md R111, example, and 95_test_vectors.md P5 line 3. -/
theorem test_busFault :
    after (exec (.busFault .wr .four 0x3FFFC#20 1#32) State.reset) (fun s => s.response) = some (.writeError .unmapped) ∧
    after (exec (.busFault .rd .two 0x08004#20 0#32) State.reset) (fun s => s.response) = some (.readError .width 0#32) := by decide
/-- 2.1 to 2.5. -/
theorem test_datapath :
    let out (i : Instr) := after (exec i (setPal 26 ⟨1#4, 2#4, 3#4⟩ State.reset)) (fun s => s.unitOut)
    out (.paletteWordParse 0x21#8 0x43#8) = some (some (.entry ⟨3#4, 2#4, 1#4⟩)) ∧
    out (.scbSelect 0xF3#8) = some (some (.palette 3#4)) ∧ out (.pixelSplit 0x5A#8) = some (some (.indices 5#4 10#4)) ∧
    out (.paletteLookup 1#4 10#4) = some (some (.entry ⟨1#4, 2#4, 3#4⟩)) ∧
    out (.channelExpand 8#4) = some (some (.channel 0x88#8)) := by decide
/-- 2.6, last pixel. -/
theorem test_rgbaPack : after (exec (.rgbaPack 199#8 319#9 15#4 10#4 5#4) State.reset) (fun s => s.outRam) =
    some [(0x3E7FC, 0xFF#8), (0x3E7FD, 0xAA#8), (0x3E7FE, 0x55#8), (0x3E7FF, 0xFF#8)] := by decide
/-- 2.7, the last entries of each function. -/
theorem test_addresses : pixAddr 199 159 = 0x7CFF ∧ scbAddr 199 = 0x7DC7 ∧ palAddr 1#4 10#4 = 0x7E34 ∧ palAddr 15#4 15#4 = 0x7FFE ∧
    outAddr 1 0 = 0x500 ∧ outAddr 199 319 = 0x3E7FC := by decide
/-- W3 and W4 on DecodeRef: pixel (1, 0) and (1, 1) of program P3's input. -/
theorem test_decodeRef :
    let inp : Nat → Byte := fun i => if i = 0x7D01 then 0xF1#8 else if i = 0x7E34 then 0x23#8 else if i = 0x7E35 then 0x01#8
      else if i = 0x7E36 then 0xFF#8 else if i = 0x7E37 then 0x0F#8 else if i = 0xA0 then 0xAB#8 else 0#8
    (List.range 8).map (fun k => decodeRef inp (0x500 + k)) =
      [0x11#8, 0x22#8, 0x33#8, 0xFF#8, 0xFF#8, 0xFF#8, 0xFF#8, 0xFF#8] := by decide
/-- A bare table word is the next operation: CTRL_RD, and the ENGINE step of 2.11's first row. -/
theorem test_withFetchWord : after (step (State.reset.withFetchWord 24 0x20800C)) (fun s => s.response) = some (.readOk 0x8000#32) ∧
    faultOf (step (State.reset.withFetchWord 8 1)) = some .unwrittenInput := by decide
/-- 2.11, RESET while busy. -/
theorem test_reset_input : after (step { busyAt .rowStart 0#8 3#8 0#8 with inputs := [.reset], inLen := 7#32 })
    (fun s => (statusWord s, s.phase, s.row, s.inLen)) = some (0#32, .idle, 0#8, 0#32) := by decide
theorem test_reset_memories_wf : Memory.wf State.reset.inRam = true ∧ Memory.wf State.reset.outRam = true := by decide
/-- Two instances: an access at a system address reaches the second. -/
theorem test_system : (systemAccess .rd .four 0x308004 0#32 [⟨0, State.reset⟩, ⟨0x300000, State.reset⟩]).map (fun p => p.block.inputs) =
    [[], [.bus 0x208004#32 0#32]] := by decide

/-! ### Witnesses: a concrete case that meets the hypotheses of each obligation, and of each of its clauses -/

theorem witness_DecodeInvertsEncode : WellFormed (.rgbaPack 199#8 319#9 15#4 10#4 5#4) = true ∧
    WellFormed (.outWr .one 0x7E7FF#20 0xFF#32) = true ∧ WellFormed (.busFault .wr .four 0xFFFFF#20 0xFFFFFFFF#32) = true := by decide

theorem witness_DecodedOperationIsWellFormed : decode ⟨.rgbaPixel, 0xFF55AAFF#32, 255996#32⟩ = .ok (.rgbaPack 199#8 319#9 15#4 10#4 5#4) ∧
    decode ⟨.busTxn, 0x7FFFFF#32 - 0x100000#32, 1#32⟩ = .ok (.busFault .wr .four 0xFFFFF#20 1#32) := by decide

theorem witness_DecodedBusTransactionEncodesBack : decode ⟨.busTxn, 0x507E00#32, 0x0F00#32⟩ = .ok (.inWr .two 0x07E00#20 0x0F00#32) := by
  decide

theorem witness_BusKeySelectsItsOnlyTableRow :
    (dataOk .rd .one 0#32 = true ∧ busCheck .one 0x7E800#20 ≠ none) ∧ (dataOk .wr .one 0xFF#32 = true ∧ busCheck .one 0x7E7FF#20 = none) ∧
    (dataOk .rd .four 0#32 = true ∧ busCheck .four 0x08010#20 = none) ∧ (dataOk .wr .two 0xFFFF#32 = true ∧ busCheck .two 0x07FFE#20 = none) := by
  decide

theorem witness_BusKeySelectsItsOnlyTableRow_row : busRow .statusRd = some (0x7FFFFF#32, 0x208004#32) ∧ 0x7FFFFF#32 ≠ 0#32 ∧
    rowMatches 0x7FFFFF#32 0x208004#32 (txnKey .rd .four 0x08004#20) = true := by decide

theorem witness_StepRunsTheDecodedOperation :
    (({ State.reset with inputs := [.bus 0x208000#32 0#32] } : State).inputs = [.bus 0x208000#32 0#32] ∧
      decode ⟨.busTxn, 0x208000#32, 0#32⟩ = .ok .ctrlRd) ∧
    (({ State.reset with inputs := [.unit ⟨.scbByte, 1#32, 0#32⟩] } : State).inputs = [.unit ⟨.scbByte, 1#32, 0#32⟩] ∧
      decode ⟨.scbByte, 1#32, 0#32⟩ = .ok (.scbSelect 1#8)) ∧
    (({ busyAt .rowStart 0#8 7#8 0#8 with inputs := [.engine] } : State).inputs = [.engine] ∧
      decode ⟨.seqPhase, phaseCode .rowStart, 0#32⟩ = .ok .seqRowStart) ∧
    (State.reset.inputs = [] ∧ decode ⟨.seqPhase, 0#32, 0#32⟩ = .ok .seqIdle) := by decide

theorem witness_PhaseSelectsTheEngineStep : ({ busyAt .pixelPair 0#8 1#8 2#8 with inputs := [.engine] } : State).inputs = [.engine] ∧
    ({ busyAt .pixelPair 0#8 1#8 2#8 with inputs := [.engine] } : State).busy = true := by decide

theorem witness_IdleBlockStays : State.reset.busy = false ∧ State.reset.inputs = [] := by decide

/-- The clauses of AccessChecksInOrder at the edges of the regions. -/
theorem witness_AccessChecksInOrder :
    (¬ (0 ≤ (0x07FFE#20).toNat ∧ (0x07FFE#20).toNat + nBytes .four ≤ 0 + 32768) ∧
      ¬ (0x08000 ≤ (0x07FFE#20).toNat ∧ (0x07FFE#20).toNat + nBytes .four ≤ 0x08000 + 20) ∧
      ¬ (0x40000 ≤ (0x07FFE#20).toNat ∧ (0x07FFE#20).toNat + nBytes .four ≤ 0x40000 + 256000)) ∧
    (0x08000 ≤ (0x08013#20).toNat ∧ (0x08013#20).toNat + nBytes .one ≤ 0x08000 + 20 ∧ Width.one ≠ .four) ∧
    (0x40000 ≤ (0x7E7FB#20).toNat ∧ (0x7E7FB#20).toNat + nBytes .four ≤ 0x40000 + 256000 ∧ (0x7E7FB#20).toNat % nBytes .four ≠ 0) ∧
    (0x08000 ≤ (0x08010#20).toNat ∧ (0x08010#20).toNat + nBytes .four ≤ 0x08000 + 20 ∧ (0x08010#20).toNat % nBytes .four = 0) := by
  decide

theorem witness_BusErrorChangesOnlyTheResponse : busCheck .four 0x3FFFE#20 = some .unmapped ∧ busCheck .two 0x08012#20 = some .width ∧
    busCheck .two 0x7E7FD#20 = some .misaligned ∧ dataOk .wr .two 0xFFFF#32 = true := by decide

theorem witness_AlignedAccessStaysInOneRegion : (0x7E7FC#20).toNat % nBytes .four = 0 ∧
    regionBase .outRam ≤ (0x7E7FC#20).toNat ∧ (0x7E7FC#20).toNat < regionBase .outRam + regionSize .outRam := by decide

theorem witness_InputReadReturnsTheBytes : WellFormed (.inRd .one 0x07FFF#20) = true ∧ busCheck .two 0x07FFF#20 = some .unmapped := by
  decide

theorem witness_OutputReadReturnsTheBytes : WellFormed (.outRd .four 0x7E7FC#20) = true ∧ State.reset.busy = false ∧
    (busyAt .palLoad 0#8 0#8 0#8).busy = true ∧ busCheck .two 0x40001#20 = some .misaligned := by decide

theorem witness_InputWriteStoresTheBytes : WellFormed (.inWr .four 0x07FFC#20 0xFFFFFFFF#32) = true ∧ State.reset.busy = false ∧
    (busyAt .palLoad 0#8 0#8 0#8).busy = true ∧ Memory.wf State.reset.inRam = true ∧ busCheck .four 0x07FFD#20 = some .unmapped := by decide

theorem witness_OutputWriteStoresTheBytes : WellFormed (.outWr .one 0x7E7FF#20 0xFF#32) = true ∧ State.reset.busy = false ∧
    (busyAt .palLoad 0#8 0#8 0#8).busy = true ∧ Memory.wf State.reset.outRam = true ∧ busCheck .one 0x7E800#20 = some .unmapped := by decide

theorem witness_ReadAfterWriteReturnsTheValue : State.reset.busy = false ∧ WellFormed (.inWr .two 0x07FFE#20 0x0FA5#32) = true ∧
    WellFormed (.outWr .four 0x40000#20 0xDEADBEEF#32) = true := by decide

theorem witness_RepeatedReadsAgree : decode ⟨.busTxn, 0x240000#32, 0#32⟩ = .ok (.outRd .four 0x40000#20) ∧
    isRead (.outRd .four 0x40000#20) = true ∧
    ({ State.reset with inputs := [.bus 0x240000#32 0#32, .bus 0x240000#32 0#32] } : State).busy = false ∧
    decode ⟨.busTxn, 0x208004#32, 0#32⟩ = .ok .statusRd ∧ isRead .statusRd = true := by decide

/-- The widths other than 4, and data that fit them, of ReadsRegister and WritesRegister. -/
theorem witness_RegisterAccesses : Width.one ≠ .four ∧ Width.two ≠ .four ∧ dataOk .wr .two 0xFFFF#32 = true := by decide

theorem witness_DecodeCommandStartsOrFails : (busyAt .rowStart 0#8 1#8 0#8).busy = true ∧ State.reset.busy = false ∧
    ({ State.reset with inLen := 32767#32 } : State).inLen.toNat < 32768 ∧ 32768 ≤ ({ State.reset with inLen := 32768#32 } : State).inLen.toNat ∧
    32768 ≤ ({ State.reset with inLen := 0xFFFFFFFF#32 } : State).inLen.toNat ∧ (0xFFFFFFFF#32).getLsbD 0 = true := by decide

theorem witness_ControlNopChangesNothing : (0xFFFFFFFE#32).getLsbD 0 = false := by decide

/-- PIDX = 255: both bytes written, and neither. -/
theorem witness_PaletteLoadStep :
    readByte [(0x7FFE, 0xA5#8), (0x7FFF, 0x0F#8)] (32256 + 2 * (255#8).toNat) = some 0xA5#8 ∧
    readByte [(0x7FFE, 0xA5#8), (0x7FFF, 0x0F#8)] (32256 + 2 * (255#8).toNat + 1) = some 0x0F#8 ∧
    readByte State.reset.inRam (32256 + 2 * (255#8).toNat) = none := by decide

theorem witness_RowStartStep : readByte [(32199, 0xFF#8)] (32000 + (199#8).toNat) = some 0xFF#8 ∧
    readByte State.reset.inRam (32000 + (0#8).toNat) = none := by decide

theorem witness_PixelPairStep : readByte [(31999, 0x0F#8)] (160 * (199#8).toNat + (159#8).toNat) = some 0x0F#8 ∧
    State.reset.pal[16 * (15#4).toNat + (0x0F#8).toNat % 16]? = some ⟨0#4, 0#4, 0#4⟩ ∧ Memory.wf State.reset.outRam = true ∧
    readByte State.reset.inRam (160 * (0#8).toNat + (0#8).toNat) = none := by decide

theorem witness_ChannelExpandReplicatesBits : expand 7#4 = expand 7#4 ∧ (14#4).toNat < (15#4).toNat ∧ (15#4).toNat = (14#4).toNat + 1 := by
  decide

theorem witness_RgbaPackWritesOnePixel : (199#8).toNat < 200 ∧ (319#9).toNat < 320 ∧ Memory.wf State.reset.outRam = true := by decide

theorem witness_AddressFunctionsAreOneToOne : pixAddr 199 159 = pixAddr 199 159 ∧ palAddr 15#4 15#4 = palAddr 15#4 15#4 ∧
    outAddr 199 319 + 3 = outAddr 199 319 + 3 ∧ 199 < 200 ∧ 159 < 160 ∧ 319 < 320 ∧ 3 < 4 := by decide

/-- Two inputs that differ at the unread ScanlineControl byte 200 agree on every byte DecodeRef reads. -/
theorem witness_ReferenceReadsOnlyItsRegions :
    (∀ i, i < 32200 ∨ (32256 ≤ i ∧ i < 32768) → (fun _ => 0#8 : Nat → Byte) i = (fun i => if i = 32200 then 1#8 else 0#8 : Nat → Byte) i) ∧
    (fun _ => 0#8 : Nat → Byte) 32200 ≠ (fun i => if i = 32200 then 1#8 else 0#8 : Nat → Byte) 32200 := by
  refine ⟨fun i hi => ?_, by decide⟩
  simp only
  rw [if_neg (by omega)]

/-- Two inputs that differ in the high nibbles of a ScanlineControl byte and of an odd palette byte. -/
theorem witness_IgnoredBitsNeverChangeTheResult :
    let f : Nat → Byte := fun _ => 0#8
    let g : Nat → Byte := fun i => if i = 32000 ∨ i = 32767 then 0xF0#8 else 0#8
    (∀ i, i < 32000 → f i = g i) ∧ (∀ i, 32000 ≤ i → i < 32256 → (f i).toNat % 16 = (g i).toNat % 16) ∧
    (∀ i, 32256 ≤ i → i < 32768 → i % 2 = 0 → f i = g i) ∧
    (∀ i, 32256 ≤ i → i < 32768 → i % 2 = 1 → (f i).toNat % 16 = (g i).toNat % 16) ∧ f 32000 ≠ g 32000 := by
  refine ⟨fun i h => ?_, fun i _ _ => ?_, fun i _ _ _ => ?_, fun i _ _ _ => ?_, by decide⟩
  · simp only; rw [if_neg (by omega)]
  · simp only; split <;> rfl
  · simp only; rw [if_neg (by omega)]
  · simp only; split <;> rfl

/-- Scanlines 199 (changed), 200 and a kept low nibble (unchanged). -/
theorem witness_ScanlineControlChangesOnlyItsScanline : 199 < 256 ∧ 1280 * 199 + 1280 ≤ 255999 + 1 ∧ 199 < 200 ∧
    (200 ≤ 200 ∧ 200 < 256) ∧ (0xF3#8).toNat % 16 = (0x03#8).toNat % 16 := by decide

theorem witness_ResetClearsTheBlock : ({ busyAt .rowStart 0#8 3#8 0#8 with inputs := [.reset] } : State).inputs = [.reset] := by decide

theorem reset_inv : BlockInv State.reset := by
  refine ⟨⟨?_, ?_, ?_, ?_, ?_, ?_⟩, ⟨?_, ?_, ?_, ?_, ?_, ?_⟩, ⟨?_, ?_, ?_, ?_⟩⟩ <;>
    simp [State.reset, Memory.wf, risingFrom, inBounds]

theorem witness_StepKeepsTheInvariant : BlockInv State.reset ∧ step State.reset = .next State.reset := ⟨reset_inv, rfl⟩

/-- An idle state with a written input of 32768 bytes. -/
def ready (es : List Input) : State := { State.reset with inRam := zeroIn, inLen := 32768#32, inputs := es }

theorem ready_inv (es : List Input) : BlockInv (ready es) :=
  ⟨⟨by simp [ready, State.reset], by simp [ready, State.reset], by simp [ready, State.reset], by simp [ready, State.reset],
      by simp [ready, State.reset], by simp [ready, State.reset]⟩,
    ⟨by simp [ready, State.reset], by simp [ready, State.reset], by simp [ready, State.reset], by simp [ready, State.reset],
      by simp [ready, State.reset], by simp [ready, State.reset]⟩,
    ⟨full_wf _ _, rfl, full_inBounds (Nat.le_refl _), rfl⟩⟩

/-- A decode before its last step: the input is written, and all output bytes but the last pair's are. -/
def lastStep (es : List Input) : State :=
  { busyAt .pixelPair 0#8 199#8 159#8 with inRam := zeroIn, outRam := full 255992 (decodeRef (bytesOf zeroIn)), inputs := es }

theorem lastStep_inv (es : List Input) : BlockInv (lastStep es) :=
  ⟨⟨by simp [lastStep, busyAt, State.reset], by simp [lastStep, busyAt, State.reset], by simp [lastStep, busyAt, State.reset],
      by simp [lastStep, busyAt, State.reset], by simp [lastStep, busyAt, State.reset], by simp [lastStep, busyAt, State.reset]⟩,
    ⟨by simp [lastStep, busyAt], by simp [lastStep, busyAt], by simp [lastStep, busyAt], by simp [lastStep, busyAt],
      by simp [lastStep, busyAt], by simp [lastStep, busyAt]⟩,
    ⟨full_wf _ _, full_wf _ _, full_inBounds (Nat.le_refl _), full_inBounds (by decide)⟩⟩

theorem lastStep_soFar (es : List Input) : DecodeSoFar (lastStep es) := by
  refine ⟨fun _ p c _ => ?_, fun _ _ => ?_, fun _ j hj => readByte_full hj⟩
  · have hp := p.isLt; have hc := c.isLt
    have ha : palAddr p c + 1 < 32768 := by simp only [palAddr, Config.palBase, Config.palStride]; omega
    show lookup (lastStep es) p c = parseEntry (bytesOf zeroIn (palAddr p c)) (bytesOf zeroIn (palAddr p c + 1))
    rw [bytesOf_zeroIn _ (by omega), bytesOf_zeroIn _ ha]
    simp only [lookup, lastStep, busyAt, State.reset, Fin.getElem_fin, Vector.getElem_replicate]
    decide
  · show 0#4 = loNibble (bytesOf zeroIn (scbAddr 199))
    rw [bytesOf_zeroIn _ (by decide)]
    decide

/-- The completion step: the hypotheses of the last clause hold too. -/
theorem witness_EveryTransitionKeepsTheDecodeCorrect : BlockInv (lastStep []) ∧ DecodeSoFar (lastStep []) ∧ onlyTransitions (lastStep []) ∧
    (lastStep []).busy = true ∧ ∃ t, step (lastStep []) = .next t ∧ t.done = true := by
  refine ⟨lastStep_inv [], lastStep_soFar [], fun e he => absurd he (List.not_mem_nil), rfl, ?_⟩
  have hb : readByte (lastStep []).inRam 31999 = some 0#8 := readByte_full (by decide)
  have hp : ∀ s : State, s.inRam = (lastStep []).inRam → s.row = 199#8 → s.col = 159#8 →
      execSeqPixelPair s = .next (advancePosition (packPair 0#8 s)) := by
    intro s h1 h2 h3
    have ha : pixAddr s.row.toNat s.col.toNat = 31999 := by rw [h2, h3]; rfl
    exact engineRead_of_written (by rw [ha, h1]; exact hb)
  refine ⟨_, (step_empty (s := lastStep []) rfl).trans (hp _ ?_ ?_ ?_), ?_⟩ <;> rfl

theorem witness_StatusReadsOneOfFourValues : BlockInv (ready []) ∧ BlockInv (lastStep []) := ⟨ready_inv [], lastStep_inv []⟩

/-- One next state for each clause of EachStateHasItsOwnWriters that changes something. -/
theorem witness_EachStateHasItsOwnWriters :
    after (exec (.inWr .one 0#20 1#32) State.reset) (fun t => t.inRam) ≠ some State.reset.inRam ∧
    after (exec (.outWr .one 0x40000#20 1#32) State.reset) (fun t => t.outRam) ≠ some State.reset.outRam ∧
    after (exec (.inLenWr 1#32) State.reset) (fun t => t.inLen) ≠ some State.reset.inLen ∧
    after (exec .seqRowStart { busyAt .rowStart 0#8 0#8 0#8 with inRam := [(32000, 1#8)] }) (fun t => t.psel) = some 1#4 ∧
    after (exec .seqPalLoad { busyAt .palLoad 0#8 0#8 0#8 with inRam := [(32256, 1#8), (32257, 0#8)] }) (fun t => t.pal[0]) =
      some ⟨0#4, 0#4, 1#4⟩ ∧
    after (exec .decodeCmd State.reset) (fun t => t.err) = some true := by decide

/-- Both memories, and each ENGINE step at the ends of its range; SEQ_PAL_LOAD with only the high byte missing. -/
theorem witness_OnlyTheTwoModelFaults :
    faultOf (exec (.inWr .one 0x07FFF#20 0#32) (busyAt .palLoad 0#8 0#8 0#8)) = some .hostWriteWhileBusy ∧
    faultOf (exec (.outWr .one 0x40000#20 0#32) (busyAt .palLoad 0#8 0#8 0#8)) = some .hostWriteWhileBusy ∧
    faultOf (exec .seqPalLoad (busyAt .palLoad 0#8 0#8 0#8)) = some .unwrittenInput ∧
    faultOf (exec .seqPalLoad { busyAt .palLoad 255#8 0#8 0#8 with inRam := [(32766, 0#8)] }) = some .unwrittenInput ∧
    faultOf (exec .seqRowStart (busyAt .rowStart 0#8 199#8 0#8)) = some .unwrittenInput ∧
    faultOf (exec .seqPixelPair (busyAt .pixelPair 0#8 199#8 159#8)) = some .unwrittenInput := by decide

theorem witness_NoWellFormedOperationIsRefused : WellFormed (.rgbaPack 199#8 319#9 0#4 0#4 0#4) = true ∧
    WellFormed (.busFault .rd .one 0x7E800#20 0#32) = true := by decide

theorem witness_InputIsFixedDuringADecode : (lastStep []).busy = true ∧ ∃ t, step (lastStep []) = .next t := by
  obtain ⟨-, -, -, -, t, h, -⟩ := witness_EveryTransitionKeepsTheDecodeCorrect
  exact ⟨rfl, t, h⟩

/-- A completed decode, with an OUT_WR to come. -/
theorem witness_OutputIsStableWhenDone : BlockInv { State.reset with done := true, inputs := [.bus 0x440000#32 1#32] } ∧
    onlyTransitions { State.reset with done := true, inputs := [.bus 0x440000#32 1#32] } ∧
    ∃ t, step { State.reset with done := true, inputs := [.bus 0x440000#32 1#32] } = .next t := by
  refine ⟨⟨⟨?_, ?_, ?_, ?_, ?_, ?_⟩, ⟨?_, ?_, ?_, ?_, ?_, ?_⟩, ⟨?_, ?_, ?_, ?_⟩⟩, ?_, ?_⟩
  any_goals simp [State.reset, Memory.wf, risingFrom, inBounds]
  · intro e he op
    simp only [List.mem_singleton] at he
    subst he
    simp
  · exact ⟨_, rfl⟩

theorem witness_CompletedDecodeEqualsReference : BlockInv (ready [.bus 0x608000#32 0xFFFFFFFF#32]) ∧
    (ready [.bus 0x608000#32 0xFFFFFFFF#32]).busy = false ∧ 32768 ≤ (ready [.bus 0x608000#32 0xFFFFFFFF#32]).inLen.toNat ∧
    inputWritten (ready [.bus 0x608000#32 0xFFFFFFFF#32]).inRam ∧ (0xFFFFFFFF#32).getLsbD 0 = true :=
  ⟨ready_inv _, rfl, Nat.le_refl _, zeroIn_written, rfl⟩

theorem witness_DecodeIsBusyUntilItsLastStep : BlockInv (ready [.bus 0x608000#32 1#32]) ∧ (ready [.bus 0x608000#32 1#32]).busy = false ∧
    32768 ≤ (ready [.bus 0x608000#32 1#32]).inLen.toNat ∧ inputWritten (ready [.bus 0x608000#32 1#32]).inRam ∧
    (1#32).getLsbD 0 = true ∧ 32455 < 32456 :=
  ⟨ready_inv _, rfl, Nat.le_refl _, zeroIn_written, rfl, by decide⟩

theorem witness_EngineStepAdvancesTheDecode : BlockInv (lastStep [.engine]) ∧ (lastStep [.engine]).busy = true ∧
    inputWritten (lastStep [.engine]).inRam ∧ (lastStep [.engine]).inputs = [.engine] :=
  ⟨lastStep_inv _, rfl, zeroIn_written, rfl⟩

theorem witness_WaitTerminates : BlockInv (lastStep [.bus 0x208004#32 0#32, .engine]) ∧ (lastStep [.engine]).busy = true ∧
    inputWritten (lastStep [.engine]).inRam ∧ decode ⟨.busTxn, 0x208004#32, 0#32⟩ = .ok .statusRd ∧ isRead .statusRd = true :=
  ⟨lastStep_inv _, rfl, zeroIn_written, by decide, rfl⟩

/-- `ready` with the record of an earlier failed decode and an OUT_RAM byte the HOST wrote. -/
def readyAfterError (es : List Input) : State :=
  { ready es with err := true, errcode := 1#4, errActual := 1000#32, outRam := [(0, 0xAA#8)] }

theorem readyAfterError_inv (es : List Input) : BlockInv (readyAfterError es) := by
  refine ⟨⟨?_, ?_, ?_, ?_, ?_, ?_⟩, ⟨?_, ?_, ?_, ?_, ?_, ?_⟩, ⟨full_wf _ _, rfl, full_inBounds (Nat.le_refl _), rfl⟩⟩ <;>
    simp [readyAfterError, ready, State.reset]

/-- Two idle states with the same input; the second holds an error record and an OUT_RAM byte. -/
theorem witness_DecodeDependsOnlyOnTheInput : BlockInv (ready [.bus 0x608000#32 1#32]) ∧
    BlockInv (readyAfterError [.bus 0x608000#32 3#32]) ∧ (readyAfterError [.bus 0x608000#32 3#32]).busy = false ∧
    (ready [.bus 0x608000#32 1#32]).inRam = (readyAfterError [.bus 0x608000#32 3#32]).inRam ∧
    32768 ≤ (readyAfterError [.bus 0x608000#32 3#32]).inLen.toNat ∧ inputWritten (ready [.bus 0x608000#32 1#32]).inRam ∧
    (1#32).getLsbD 0 = true ∧ (3#32).getLsbD 0 = true :=
  ⟨ready_inv _, readyAfterError_inv _, rfl, rfl, Nat.le_refl _, zeroIn_written, rfl, rfl⟩

/-- Inputs of any length k can be presented in an idle state: k = 32768 is decoded and k = 32767 is rejected. -/
theorem witness_PresentedInputIsDecodedOrRejected (k : Nat) :
    ∃ raw : List Byte, raw.length = k ∧ BlockInv (ready (presentInput raw ++ pseudoDecode)) ∧
      (ready (presentInput raw ++ pseudoDecode)).busy = false :=
  ⟨List.replicate k 0#8, List.length_replicate, ready_inv _, rfl⟩

/-- The last 8 bytes of IN_RAM, and all of OUT_RAM as in program P2. -/
theorem witness_FillWritesItsRange : State.reset.busy = false ∧ (32760 % 4 = 0 ∧ 8 % 4 = 0 ∧ 32760 + 8 ≤ 32768) ∧
    (0x40000 % 4 = 0 ∧ 256000 % 4 = 0 ∧ 0x40000 ≤ 0x40000 ∧ 0x40000 + 256000 ≤ 0x40000 + 256000) ∧
    Memory.wf State.reset.inRam = true ∧ Memory.wf State.reset.outRam = true := by decide

theorem witness_InstancesShareNoState : systemStep 1 [⟨0, State.reset⟩, ⟨0x100000, State.reset⟩] =
    .next [⟨0, State.reset⟩, ⟨0x100000, State.reset⟩] := rfl

theorem witness_SystemAccessReachesOneInstance : systemWf [⟨0, State.reset⟩, ⟨0x100000, State.reset⟩] = true ∧
    [(⟨0, State.reset⟩ : Placed), ⟨0x100000, State.reset⟩][1]? = some ⟨0x100000, State.reset⟩ ∧
    inWindow ⟨0x100000, State.reset⟩ 0x1FFFFF = true := ⟨rfl, rfl, rfl⟩

theorem witness_PollGoesOnWhileBusy : ({ busyAt .rowStart 0#8 0#8 0#8 with inputs := [pseudoPoll] } : State).inputs = [pseudoPoll] := by
  decide

end Sys2Proof.Tests
end

section
/-! PROOFS. Several blocks in one system (00_scope.md R9, 60_exceptions.md R125): what a transition of one block can do to the list of
blocks, and that the others share no state with it. -/

namespace Sys2Proof.Machine

@[simp] theorem systemStep_nil (k : Nat) : systemStep k [] = .next [] := by
  cases k <;> rfl

/-- What a transition of block k of a system can do, said once: with no block k nothing moves, and otherwise block k takes its own
step and stands at its BLOCK_BASE and its place in the list. -/
theorem systemStep_next_cases {k : Nat} {ps qs : List Placed} (h : systemStep k ps = .next qs) :
    (ps.length ≤ k ∧ qs = ps) ∨
      ∃ p s, ps[k]? = some p ∧ step p.block = .next s ∧ qs = ps.set k { p with block := s } := by
  induction ps generalizing k qs with
  | nil =>
    rw [systemStep_nil] at h
    cases h
    exact .inl ⟨Nat.zero_le k, rfl⟩
  | cons p ps ih =>
    cases k with
    | zero =>
      simp only [systemStep] at h
      split at h <;> cases h
      next s hs => exact .inr ⟨p, s, rfl, hs, rfl⟩
    | succ k =>
      simp only [systemStep] at h
      split at h <;> cases h
      next qs hq =>
        obtain ⟨hk, rfl⟩ | ⟨p', s, hp, hs, rfl⟩ := ih hq
        · exact .inl ⟨Nat.succ_le_succ hk, rfl⟩
        · exact .inr ⟨p', s, hp, hs, rfl⟩

/-- Putting another block state at the BLOCK_BASE of block k keeps every BLOCK_BASE. -/
theorem map_blockBase_set {k : Nat} {ps : List Placed} {p : Placed} (hp : ps[k]? = some p) (s : State) :
    (ps.set k { p with block := s }).map (·.blockBase) = ps.map (·.blockBase) := by
  obtain ⟨hk, rfl⟩ := List.getElem?_eq_some_iff.mp hp
  have hget : (ps.map (·.blockBase))[k]'(by simpa using hk) = ps[k].blockBase := List.getElem_map _
  rw [List.map_set, ← hget, List.set_getElem_self]

/-- Settles O52: the list after the transition is the list before it with the state of block k alone replaced. -/
theorem instancesShareNoState : Obligations.InstancesShareNoState := by
  intro k ps qs h
  obtain ⟨-, rfl⟩ | ⟨p, s, hp, -, rfl⟩ := systemStep_next_cases h
  · exact ⟨rfl, rfl, fun _ _ => rfl⟩
  · exact ⟨List.length_set, (map_blockBase_set hp s).symm, fun _ hj => List.getElem?_set_ne hj.symm⟩

end Sys2Proof.Machine
end

section
/-! PROOFS. What an operation that answers a next state can do to the block, said once: the whole-machine rules of 10_state.md are read
off it. -/

namespace Sys2Proof.Machine

/-- What a DECODE command does: nothing while busy, a failed length check, or a start of the ENGINE (40_decode_command.md R66). -/
theorem issueDecode_cases (s : State) :
    (s.busy = true ∧ issueDecode s = s) ∨
    (s.busy = false ∧ s.inLen.toNat < 32768 ∧ issueDecode s = raiseTruncatedInput s.inLen (clearRecord s)) ∨
    (s.busy = false ∧ 32768 ≤ s.inLen.toNat ∧ issueDecode s = startEngine (clearRecord s)) := by
  unfold issueDecode
  cases hb : s.busy
  · by_cases hl : s.inLen.toNat < 32768
    · exact .inr (.inl ⟨rfl, hl, by simp [tooShort, hl]⟩)
    · exact .inr (.inr ⟨rfl, by omega, by simp [tooShort, hl]⟩)
  · exact .inl ⟨rfl, rfl⟩

/-- A CTRL write issues DECODE or nothing. -/
theorem issueCommand_cases (d : Word) (s : State) : issueCommand d s = issueDecode s ∨ issueCommand d s = s := by
  unfold issueCommand
  split
  · exact .inl rfl
  · exact .inr rfl

/-- PIDX and PHASE after one palette entry, by case of R83. -/
theorem advancePidx_cases (s : State) :
    (s.pidx = 255#8 ∧ advancePidx s = { s with pidx := 0#8, phase := .rowStart }) ∨
    (s.pidx ≠ 255#8 ∧ advancePidx s = { s with pidx := s.pidx + 1#8 }) := by
  unfold advancePidx
  split
  · next h => exact .inl ⟨h, rfl⟩
  · next h => exact .inr ⟨h, rfl⟩

/-- The position after one PixelPlane byte, by case of R95: inside the scanline, at its end, at the last byte. -/
theorem advancePosition_cases (s : State) :
    (s.col.toNat < 159 ∧ advancePosition s = { s with col := s.col + 1#8 }) ∨
    (159 ≤ s.col.toNat ∧ s.row.toNat < 199 ∧
      advancePosition s = { s with col := 0#8, row := s.row + 1#8, phase := .rowStart }) ∨
    (159 ≤ s.col.toNat ∧ 199 ≤ s.row.toNat ∧ advancePosition s = finishDecode { s with col := 0#8 }) := by
  unfold advancePosition
  split
  · next h => exact .inl ⟨h, rfl⟩
  · split
    · next h h' => exact .inr (.inl ⟨by omega, h', rfl⟩)
    · next h h' => exact .inr (.inr ⟨by omega, by omega, rfl⟩)

/-- The next states of an operation, one case for each change of the block; `exec_effect` ties it to the model. -/
inductive Effect (s : State) : Instr → State → Prop where
  /-- The model's own fields alone: reads, ignored writes, BusErrors, units, SEQ_IDLE and CTRL_NOP. -/
  | own (i : Instr) (r : BusResponse) (u : Option UnitResult) (n : Nat) :
      Effect s i { s with response := r, unitOut := u, draws := n }
  | inWr {n : Width} {a : Offset} {v : Word} (hb : s.busy = false) (ha : passesIn .inRam n a = true) :
      Effect s (.inWr n a v) (respond .writeOk (setInRam (memWrite s.inRam a.toNat (nBytes n) v) s))
  | outWr {n : Width} {a : Offset} {v : Word} (hb : s.busy = false) (ha : passesIn .outRam n a = true) :
      Effect s (.outWr n a v)
        (respond .writeOk (setOutRam (memWrite s.outRam (a.toNat - Config.outBase) (nBytes n) v) s))
  | inLenWr (d : Word) : Effect s (.inLenWr d) (respond .writeOk (setInLen d s))
  | ctrlWr (d : Word) : Effect s (.ctrlWr d) (respond .writeOk (issueCommand d s))
  | decodeCmd : Effect s .decodeCmd (issueDecode s)
  | rgbaPack {y : BitVec 8} {x : BitVec 9} {r4 g4 b4 : Nibble} (hy : y.toNat < 200) (hx : x.toNat < 320) :
      Effect s (.rgbaPack y x r4 g4 b4) (packPixel y.toNat x.toNat ⟨r4, g4, b4⟩ s)
  | seqPalLoad {lo hi : Byte} (hlo : readByte s.inRam (palAddr (pidxPalette s.pidx) (pidxColour s.pidx)) = some lo)
      (hhi : readByte s.inRam (palAddr (pidxPalette s.pidx) (pidxColour s.pidx) + 1) = some hi) :
      Effect s .seqPalLoad
        (advancePidx (setPal (palIndex (pidxPalette s.pidx) (pidxColour s.pidx)) (parseEntry lo hi) s))
  | seqRowStart {b : Byte} (hb : readByte s.inRam (scbAddr s.row.toNat) = some b) :
      Effect s .seqRowStart { s with psel := loNibble b, phase := .pixelPair }
  | seqPixelPair {b : Byte} (hb : readByte s.inRam (pixAddr s.row.toNat s.col.toNat) = some b) :
      Effect s .seqPixelPair (advancePosition (setOutRam (packPair b s).outRam s))

theorem effect_unchanged (s : State) (i : Instr) : Effect s i s := .own i s.response s.unitOut s.draws

theorem effect_respond (s : State) (i : Instr) (r : BusResponse) : Effect s i (respond r s) := .own i r s.unitOut s.draws

theorem effect_setUnit (s : State) (i : Instr) (u : UnitResult) : Effect s i (setUnit u s) :=
  .own i s.response (some u) s.draws

theorem effect_busError (s : State) (i : Instr) (dir : Dir) (c : BusCause) : Effect s i (busError dir c s) := by
  obtain ⟨r, hr⟩ := busError_eq dir c s
  rw [hr]
  exact effect_respond s i r

/-- A checked access has an effect of its operation when the access it performs has one. -/
theorem effect_of_checkedAccess {r : Region} {dir : Dir} {n : Width} {a : Offset} {s t : State} {i : Instr}
    {k : State → Host.Outcome State Fault Refusal} (h : checkedAccess r dir n a s k = .next t)
    (hk : passesIn r n a = true → k s = .next t → Effect s i t) : Effect s i t := by
  obtain ⟨c, -, rfl⟩ | ⟨hp, h⟩ := checkedAccess_next h
  · exact effect_busError s i dir c
  · exact hk hp h

theorem execInRd_effect {n : Width} {a : Offset} {s t : State} (h : execInRd n a s = .next t) : Effect s (.inRd n a) t := by
  refine effect_of_checkedAccess h fun _ hk => ?_
  cases hk
  exact effect_respond s _ _

theorem execOutRd_effect {n : Width} {a : Offset} {s t : State} (h : execOutRd n a s = .next t) :
    Effect s (.outRd n a) t := by
  refine effect_of_checkedAccess h fun _ hk => ?_
  split at hk <;> cases hk
  · exact .own _ _ s.unitOut (s.draws + 1)
  · exact effect_respond s _ _

theorem execInWr_effect {n : Width} {a : Offset} {v : Word} {s t : State} (h : execInWr n a v s = .next t) :
    Effect s (.inWr n a v) t := by
  refine effect_of_checkedAccess h fun hp hk => ?_
  split at hk <;> cases hk
  next hb => exact .inWr (by simpa using hb) hp

theorem execOutWr_effect {n : Width} {a : Offset} {v : Word} {s t : State} (h : execOutWr n a v s = .next t) :
    Effect s (.outWr n a v) t := by
  refine effect_of_checkedAccess h fun hp hk => ?_
  split at hk <;> cases hk
  next hb => exact .outWr (by simpa using hb) hp

theorem execBusFault_effect {dir : Dir} {n : Width} {a : Offset} {v : Word} {s t : State}
    (h : execBusFault dir n a s = .next t) : Effect s (.busFault dir n a v) t := by
  unfold execBusFault at h
  split at h <;> cases h
  exact effect_busError s _ dir _

theorem execRgbaPack_effect {y : BitVec 8} {x : BitVec 9} {r4 g4 b4 : Nibble} {s t : State}
    (h : execRgbaPack y x r4 g4 b4 s = .next t) : Effect s (.rgbaPack y x r4 g4 b4) t := by
  unfold execRgbaPack at h
  split at h <;> cases h
  next hyx => exact .rgbaPack hyx.1 hyx.2

/-- Everything an operation that answers a next state can do. -/
theorem exec_effect {i : Instr} {s t : State} (h : exec i s = .next t) : Effect s i t := by
  cases i with
  | seqIdle | ctrlNop => cases h; exact effect_unchanged s _
  | seqPalLoad =>
    obtain ⟨lo, hi, hlo, hhi, rfl⟩ := execSeqPalLoad_next h
    exact .seqPalLoad hlo hhi
  | seqRowStart =>
    obtain ⟨b, hb, rfl⟩ := execSeqRowStart_next h
    exact .seqRowStart hb
  | seqPixelPair =>
    obtain ⟨b, hb, rfl⟩ := execSeqPixelPair_next h
    exact .seqPixelPair hb
  | decodeCmd => cases h; exact .decodeCmd
  | inRd n a => exact execInRd_effect h
  | inWr n a v => exact execInWr_effect h
  | outRd n a => exact execOutRd_effect h
  | outWr n a v => exact execOutWr_effect h
  | ctrlRd | statusRd | inLenRd | errRequiredRd | errActualRd => cases h; exact effect_respond s _ _
  | statusWr d | errRequiredWr d | errActualWr d => cases h; exact effect_respond s _ _
  | ctrlWr d => cases h; exact .ctrlWr d
  | inLenWr d => cases h; exact .inLenWr d
  | busFault dir n a v => exact execBusFault_effect h
  | paletteWordParse lo hi | scbSelect scb | pixelSplit b | paletteLookup psel idx | channelExpand v =>
    cases h; exact effect_setUnit s _ _
  | rgbaPack y x r4 g4 b4 => exact execRgbaPack_effect h

theorem engineInstr_injective : Function.Injective engineInstr := by
  intro p q h
  cases p <;> cases q <;> simp [engineInstr] at h ⊢

theorem engineTurn_of_busy {s : State} (hb : s.busy = true) : engineTurn s = engineInstr s.phase := by
  rw [engineTurn, if_pos hb]

theorem engineTurn_of_not_busy {s : State} (hb : s.busy = false) : engineTurn s = engineInstr .idle := by
  rw [engineTurn, hb]
  rfl

/-- The ENGINE's turn does not depend on the inputs. -/
theorem engineTurn_prepared (i : Instr) (es : List Input) (s : State) : engineTurn (prepared i es s) = engineTurn s := by
  obtain ⟨n, hp⟩ := prepared_eq i es s
  rw [hp]
  rfl

/-- An ENGINE step other than SEQ_IDLE, taken at the ENGINE's turn, tells BUSY and PHASE. -/
theorem phase_of_engineTurn {s : State} {p : Phase} (h : engineInstr p = engineTurn s) (hp : p ≠ .idle) :
    s.busy = true ∧ s.phase = p := by
  cases hb : s.busy with
  | false => exact absurd (engineInstr_injective (h.trans (engineTurn_of_not_busy hb))) hp
  | true => exact ⟨rfl, (engineInstr_injective (h.trans (engineTurn_of_busy hb))).symm⟩

/-- No encoding of an ENGINE step is a command, a unit or a HOST access, so a step runs one only at the ENGINE's turn. -/
theorem engineTurn_of_issued {s : State} {i : Instr} {es : List Input} (h : Issued s i es)
    (hi : (encode i).format = .seqPhase) : i = engineTurn s := by
  cases h with
  | bus key v _ _ _ hd => rw [format_of_decode hd] at hi; cases hi
  | unit op _ _ _ hu => rw [hi] at hu; cases hu
  | engine _ _ _ hi => exact hi

end Sys2Proof.Machine
end

section
/-! PROOFS. Which operations change which state (10_state.md R17, R23, R25, R28 to R30, R43). -/

namespace Sys2Proof.Machine

/-- DECODE touches neither memory, nor IN_LEN, PAL, PSEL or the inputs. -/
theorem issueDecode_frame (s : State) : (issueDecode s).inRam = s.inRam ∧ (issueDecode s).outRam = s.outRam ∧
    (issueDecode s).inLen = s.inLen ∧ (issueDecode s).pal = s.pal ∧ (issueDecode s).psel = s.psel ∧
    (issueDecode s).inputs = s.inputs := by
  obtain ⟨-, h⟩ | ⟨-, -, h⟩ | ⟨-, -, h⟩ := issueDecode_cases s <;> simp [h]

theorem issueCommand_frame (d : Word) (s : State) : (issueCommand d s).inRam = s.inRam ∧
    (issueCommand d s).outRam = s.outRam ∧ (issueCommand d s).inLen = s.inLen ∧ (issueCommand d s).pal = s.pal ∧
    (issueCommand d s).psel = s.psel ∧ (issueCommand d s).inputs = s.inputs := by
  obtain h | h := issueCommand_cases d s <;> rw [h]
  · exact issueDecode_frame s
  · simp

/-- Advancing PIDX touches PIDX and PHASE alone. -/
theorem advancePidx_frame (s : State) : ∃ p ph, advancePidx s = { s with pidx := p, phase := ph } := by
  obtain ⟨-, h⟩ | ⟨-, h⟩ := advancePidx_cases s
  · exact ⟨_, _, h⟩
  · exact ⟨_, s.phase, h⟩

/-- Advancing the position touches the position, PHASE, BUSY and DONE alone. -/
theorem advancePosition_frame (s : State) :
    ∃ c r ph b d, advancePosition s = { s with col := c, row := r, phase := ph, busy := b, done := d } := by
  obtain ⟨-, h⟩ | ⟨-, -, h⟩ | ⟨-, -, h⟩ := advancePosition_cases s
  · exact ⟨_, s.row, s.phase, s.busy, s.done, h⟩
  · exact ⟨_, _, _, s.busy, s.done, h⟩
  · exact ⟨_, _, _, _, _, h⟩

open Sys2Proof.Safety in
/-- Settles O39, by the effects of an operation: every field that an effect leaves alone drops out. -/
theorem eachStateHasItsOwnWriters : Obligations.EachStateHasItsOwnWriters := by
  intro i s t h
  cases exec_effect h with
  | own => simp
  | inWr hb => simp [hb]
  | outWr hb => simp [hb]
  | inLenWr d => simp
  | ctrlWr d => simp [issueCommand_frame d s, isCommand]
  | decodeCmd => simp [issueDecode_frame s, isCommand]
  | rgbaPack => simp [packPixel_eq]
  | @seqPalLoad lo hi =>
    obtain ⟨p, ph, h⟩ := advancePidx_frame
      (setPal (palIndex (pidxPalette s.pidx) (pidxColour s.pidx)) (parseEntry lo hi) s)
    simp [h, isEngineStep]
  | seqRowStart => simp [isEngineStep]
  | @seqPixelPair b =>
    obtain ⟨c, r, ph, bu, d, h⟩ := advancePosition_frame (setOutRam (packPair b s).outRam s)
    simp [h, isEngineStep]

/-- Settles O42: IN_RAM has one writer, IN_WR while BUSY = 0, and taking an input off the list keeps BUSY. -/
theorem inputIsFixedDuringADecode : Obligations.InputIsFixedDuringADecode := by
  intro s t hb h
  obtain ⟨es, hs, -⟩ | ⟨i, es, -, h⟩ := step_cases h
  · exact .inr ⟨es, hs⟩
  · left
    obtain ⟨n, hp⟩ := prepared_eq i es s
    rw [hp] at h
    by_contra hne
    obtain ⟨hw, -⟩ := eachStateHasItsOwnWriters i _ t h
    exact absurd (hw hne).1 (by simp [hb])

end Sys2Proof.Machine
end

section
/-! PROOFS. The invariant of the block (10_state.md R17, R21, R22, R27, R29, R30): it holds after reset and every step keeps it. -/

namespace Sys2Proof.Safety

open Sys2Proof.Machine

/-- The invariant does not speak of IN_LEN, PSEL, PAL or the model's own fields. -/
theorem BlockInv.frame {s : State} (h : BlockInv s) (l : Word) (p : Nibble) (e : Vector PalEntry 256) (r : BusResponse)
    (u : Option UnitResult) (es : List Input) (n : Nat) :
    BlockInv { s with inLen := l, psel := p, pal := e, response := r, unitOut := u, inputs := es, draws := n } := by
  obtain ⟨hst, hsq, hm⟩ := h
  exact ⟨{ hst with }, { hsq with }, { hm with }⟩

theorem BlockInv.respond {s : State} (h : BlockInv s) (r : BusResponse) : BlockInv (respond r s) :=
  h.frame s.inLen s.psel s.pal r s.unitOut s.inputs s.draws

theorem BlockInv.prepared {s : State} (h : BlockInv s) (i : Instr) (es : List Input) : BlockInv (prepared i es s) := by
  obtain ⟨n, hp⟩ := prepared_eq i es s
  rw [hp]
  exact h.frame s.inLen s.psel s.pal s.response s.unitOut es n

/-- Another canonical IN_RAM of its size keeps the invariant. -/
theorem BlockInv.setInRam {s : State} {m : Memory} (h : BlockInv s) (hw : Memory.wf m = true)
    (hs : inBounds Config.inSize m = true) : BlockInv (setInRam m s) := by
  obtain ⟨hst, hsq, hm⟩ := h
  exact ⟨{ hst with }, { hsq with }, { hm with inWf := hw, inSize := hs }⟩

/-- Another canonical OUT_RAM of its size keeps the invariant. -/
theorem BlockInv.setOutRam {s : State} {m : Memory} (h : BlockInv s) (hw : Memory.wf m = true)
    (hs : inBounds Config.outSize m = true) : BlockInv (setOutRam m s) := by
  obtain ⟨hst, hsq, hm⟩ := h
  exact ⟨{ hst with }, { hsq with }, { hm with outWf := hw, outSize := hs }⟩

/-- While BUSY = 1 there is no DONE and no error record. -/
theorem BlockInv.of_busy {s : State} (h : BlockInv s) (hb : s.busy = true) : s.done = false ∧ s.err = false := by
  obtain ⟨⟨hbd, hbe, -, -, -, -⟩, -, -⟩ := h
  exact ⟨by simpa [hb] using hbd, by simpa [hb] using hbe⟩

theorem BlockInv.busy_iff {s : State} (h : BlockInv s) : s.busy = true ↔ s.phase ≠ .idle := h.status.busyPhase

/-- An idle block has PHASE = IDLE and the counters 0. -/
theorem BlockInv.of_idle {s : State} (h : BlockInv s) (hb : s.busy = false) :
    s.phase = .idle ∧ s.pidx = 0#8 ∧ s.row = 0#8 ∧ s.col = 0#8 := by
  have hp : s.phase = .idle := by simpa [hb] using h.busy_iff
  exact ⟨hp, h.seq.idle hp⟩

/-- DECODE keeps the invariant: a failed length check sets the record of an idle block, a passed one starts at the zero position. -/
theorem BlockInv.issueDecode {s : State} (h : BlockInv s) : BlockInv (issueDecode s) := by
  obtain ⟨-, he⟩ | ⟨hb, -, he⟩ | ⟨hb, -, he⟩ := issueDecode_cases s <;> rw [he]
  · exact h
  · obtain ⟨hst, hsq, hm⟩ := h
    refine ⟨⟨?_, ?_, ?_, ?_, hst.busyPhase, ?_⟩, { hsq with }, { hm with }⟩ <;> simp [hb]
  · refine ⟨⟨?_, ?_, ?_, ?_, ?_, ?_⟩, ⟨?_, ?_, ?_, ?_, ?_, ?_⟩, { h.mem with }⟩ <;> simp

theorem BlockInv.issueCommand {s : State} (h : BlockInv s) (d : Word) : BlockInv (issueCommand d s) := by
  obtain he | he := issueCommand_cases d s <;> rw [he]
  · exact h.issueDecode
  · exact h

/-- A busy ENGINE may go to any PHASE but IDLE, and to any position the new PHASE admits. -/
theorem BlockInv.move {s : State} (h : BlockInv s) (hb : s.busy = true) {p : Phase} {i r c : BitVec 8} (hp : p ≠ .idle)
    (hr : r.toNat < 200) (hc : c.toNat < 160) (hl : p = .palLoad → r = 0#8 ∧ c = 0#8)
    (hrs : p = .rowStart → i = 0#8 ∧ c = 0#8) (hpp : p = .pixelPair → i = 0#8) :
    BlockInv { s with phase := p, pidx := i, row := r, col := c } := by
  obtain ⟨hst, -, hm⟩ := h
  exact ⟨{ hst with busyPhase := ⟨fun _ => hp, fun _ => hb⟩ },
    ⟨hr, hc, fun h => absurd h hp, hl, hrs, hpp⟩, { hm with }⟩

/-- Loading a palette entry keeps the invariant of a PAL_LOAD state. -/
theorem BlockInv.advancePidx {s : State} (h : BlockInv s) (hp : s.phase = .palLoad) : BlockInv (advancePidx s) := by
  have hb : s.busy = true := h.busy_iff.mpr (by simp [hp])
  obtain ⟨hr, hc⟩ := h.seq.palLoad hp
  obtain ⟨-, he⟩ | ⟨-, he⟩ := advancePidx_cases s <;> rw [he]
  · exact h.move hb (by simp) h.seq.row h.seq.col (by simp) (fun _ => ⟨rfl, hc⟩) (by simp)
  · exact h.move (p := s.phase) hb (by simp [hp]) h.seq.row h.seq.col (fun _ => ⟨hr, hc⟩) (by simp [hp]) (by simp [hp])

/-- The completion of a decode keeps the invariant. -/
theorem BlockInv.finishDecode {s : State} (h : BlockInv s) (hb : s.busy = true) (hi : s.pidx = 0#8) (hc : s.col = 0#8) :
    BlockInv (finishDecode s) := by
  obtain ⟨-, he⟩ := h.of_busy hb
  obtain ⟨hst, -, hm⟩ := h
  refine ⟨⟨?_, ?_, ?_, hst.errcode, ?_, hst.errActual⟩, ⟨?_, ?_, ?_, ?_, ?_, ?_⟩, { hm with }⟩ <;> simp [he, hi, hc]

/-- Advancing the position keeps the invariant of a PIXEL_PAIR state. -/
theorem BlockInv.advancePosition {s : State} (h : BlockInv s) (hp : s.phase = .pixelPair) : BlockInv (advancePosition s) := by
  have hb : s.busy = true := h.busy_iff.mpr (by simp [hp])
  have hi := h.seq.pixelPair hp
  have hr := h.seq.row
  obtain ⟨hc, he⟩ | ⟨-, hr', he⟩ | ⟨-, -, he⟩ := advancePosition_cases s <;> rw [he]
  · exact h.move (p := s.phase) hb (by simp [hp]) hr (by bv_omega) (by simp [hp]) (by simp [hp]) fun _ => hi
  · exact h.move hb (by simp) (by bv_omega) (by decide) (by simp) (fun _ => ⟨hi, rfl⟩) (by simp)
  · exact (h.move (p := s.phase) (c := 0#8) hb (by simp [hp]) hr (by decide) (by simp [hp]) (by simp [hp])
      fun _ => hi).finishDecode hb hi rfl

/-- Packing the two pixels of a byte keeps the invariant at any position inside the bitmap. -/
theorem BlockInv.packPair {s : State} (h : BlockInv s) (b : Byte) : BlockInv (Machine.setOutRam (packPair b s).outRam s) := by
  have hr := h.seq.row
  have hc := h.seq.col
  exact h.setOutRam (packPixel_wf (packPixel_wf h.mem.outWf))
    (packPixel_inBounds hr (by omega) (packPixel_inBounds hr (by omega) h.mem.outSize))

/-- A next state of an operation meets the invariant again, when an ENGINE step comes at its own PHASE. -/
theorem BlockInv.of_effect {i : Instr} {s t : State} (h : BlockInv s) (he : Effect s i t)
    (hi : (encode i).format = .seqPhase → i = engineTurn s) : BlockInv t := by
  cases he with
  | own _ r u n => exact h.frame s.inLen s.psel s.pal r u s.inputs n
  | inWr _ ha =>
    obtain ⟨-, hle⟩ := passesIn_bounds ha
    exact (h.setInRam (memWrite_wf _ _ _ h.mem.inWf)
      (memWrite_inBounds _ (by simpa [regionBase, regionSize] using hle) h.mem.inSize)).respond _
  | outWr _ ha =>
    obtain ⟨hge, hle⟩ := passesIn_bounds ha
    simp only [regionBase, regionSize] at hge hle
    exact (h.setOutRam (memWrite_wf _ _ _ h.mem.outWf) (memWrite_inBounds _ (by omega) h.mem.outSize)).respond _
  | inLenWr d => exact h.frame d s.psel s.pal .writeOk s.unitOut s.inputs s.draws
  | ctrlWr d => exact (h.issueCommand d).respond _
  | decodeCmd => exact h.issueDecode
  | rgbaPack hy hx => exact h.setOutRam (packPixel_wf h.mem.outWf) (packPixel_inBounds hy hx h.mem.outSize)
  | seqPalLoad =>
    obtain ⟨-, hp⟩ := phase_of_engineTurn (p := .palLoad) (hi rfl) (by simp)
    exact (h.frame s.inLen s.psel _ s.response s.unitOut s.inputs s.draws).advancePidx hp
  | @seqRowStart b =>
    obtain ⟨hb, hp⟩ := phase_of_engineTurn (p := .rowStart) (hi rfl) (by simp)
    obtain ⟨hpidx, -⟩ := h.seq.rowStart hp
    exact (h.move (p := .pixelPair) hb (by simp) h.seq.row h.seq.col (by simp) (by simp) fun _ => hpidx).frame
      s.inLen (loNibble b) s.pal s.response s.unitOut s.inputs s.draws
  | seqPixelPair =>
    obtain ⟨-, hp⟩ := phase_of_engineTurn (p := .pixelPair) (hi rfl) (by simp)
    exact (h.packPair _).advancePosition hp

/-- Settles O36, field by field of the reset state: idle, no flag, all counters 0, both memories empty. -/
theorem invariantHoldsAtReset : Obligations.InvariantHoldsAtReset := by
  refine ⟨⟨?_, ?_, ?_, ?_, ?_, ?_⟩, ⟨?_, ?_, ?_, ?_, ?_, ?_⟩, ⟨?_, ?_, ?_, ?_⟩⟩ <;>
    simp [State.reset, Memory.wf, risingFrom, inBounds]

/-- RESET gives a state that differs from the reset state in PAL, the inputs and the free-value key only. -/
theorem applyReset_inv (s : State) : BlockInv (applyReset s) :=
  invariantHoldsAtReset.frame _ _ _ _ _ _ _

/-- Settles O37: a step is a RESET or an operation, and an ENGINE step is run only at its own PHASE. -/
theorem stepKeepsTheInvariant : Obligations.StepKeepsTheInvariant := by
  intro s t hinv h
  obtain ⟨es, -, rfl⟩ | ⟨i, es, hi, h⟩ := step_cases h
  · exact applyReset_inv _
  · refine (hinv.prepared i es).of_effect (exec_effect h) fun hf => ?_
    rw [engineTurn_prepared]
    exact engineTurn_of_issued hi hf

/-- The four values of the flags BUSY, DONE, ERR that R22 leaves: none set, or one. -/
theorem StatusInv.flag_cases {s : State} (h : StatusInv s) :
    (s.busy = false ∧ s.done = false ∧ s.err = false) ∨ (s.busy = true ∧ s.done = false ∧ s.err = false) ∨
    (s.busy = false ∧ s.done = true ∧ s.err = false) ∨ (s.busy = false ∧ s.done = false ∧ s.err = true) := by
  obtain ⟨hbd, hbe, hde, -, -, -⟩ := h
  by_cases hb : s.busy = true
  · exact .inr (.inl ⟨hb, by simpa [hb] using hbd, by simpa [hb] using hbe⟩)
  · by_cases hd : s.done = true
    · exact .inr (.inr (.inl ⟨by simpa using hb, hd, by simpa [hd] using hde⟩))
    · cases he : s.err
      · exact .inl ⟨by simpa using hb, by simpa using hd, rfl⟩
      · exact .inr (.inr (.inr ⟨by simpa using hb, by simpa using hd, rfl⟩))

/-- Settles O38: at most one flag is set, ERRCODE is 1 exactly with ERR, and BUSY is bit 0. -/
theorem statusReadsOneOfFourValues : Obligations.StatusReadsOneOfFourValues := by
  intro s hinv
  refine ⟨statusWord s, rfl, ?_⟩
  rw [← hinv.busy_iff]
  have hcode := hinv.status.errcode
  obtain ⟨hb, hd, he⟩ | ⟨hb, hd, he⟩ | ⟨hb, hd, he⟩ | ⟨hb, hd, he⟩ := hinv.status.flag_cases <;>
    simp [statusWord, flagBit, hcode, hb, hd, he]

/-- A run keeps the invariant. -/
theorem BlockInv.run {k : Nat} {s t : State} (h : BlockInv s) (hr : Host.Core.run Sys2Proof.core k s = .next t) :
    BlockInv t := by
  induction k generalizing s with
  | zero => cases hr; exact h
  | succ k ih =>
    cases hs : step s with
    | next u => exact ih (stepKeepsTheInvariant s u h hs) ((run_succ_of_step k hs).symm.trans hr)
    | fault f => simp [Host.Core.run, Sys2Proof.core, hs] at hr
    | refused r => simp [Host.Core.run, Sys2Proof.core, hs] at hr

end Sys2Proof.Safety
end

section
/-! PROOFS. The operation a step runs (10_state.md R14, 30_encoding.md R59), and the registers after reset (10_state.md R32). -/

namespace Sys2Proof.Machine

/-- The state an operation runs on, as an update of the model's own fields. -/
theorem prepared_eq_update (i : Instr) (es : List Input) (s : State) :
    prepared i es s = { s with inputs := es, draws := if keepsDraws i then s.draws else s.draws + 1 } := by
  unfold prepared
  split <;> rfl

/-- A format that is neither SEQ_PHASE nor BUS_TXN may be run on its own. -/
theorem isUnitFormat_of_ne {f : Format} (hs : f ≠ .seqPhase) (hb : f ≠ .busTxn) : isUnitFormat f = true := by
  cases f with
  | seqPhase => exact absurd rfl hs
  | busTxn => exact absurd rfl hb
  | ctrlWord | colourWord | scbByte | pixelByte | rgbaPixel | palSelect | channel => rfl

/-- Settles O6, by the step equation of each source of the word. -/
theorem stepRunsTheDecodedOperation : Obligations.StepRunsTheDecodedOperation := by
  intro s i es
  simp only [← prepared_eq_update]
  refine ⟨fun key v hs hd => step_bus hs hd,
    fun op hs hseq hbus hd => step_unit hs (isUnitFormat_of_ne hseq hbus) hd, fun hs hd => ?_⟩
  have hi : i = engineTurn s := Except.ok.inj (hd.symm.trans (decode_engineWord s))
  subst hi
  obtain hs | ⟨hs, rfl⟩ := hs
  · exact step_engine hs
  · exact step_empty hs

/-- Settles O7: the ENGINE's turn, by PHASE. -/
theorem phaseSelectsTheEngineStep : Obligations.PhaseSelectsTheEngineStep := by
  refine ⟨fun s es hs hb => ?_, decode_phaseCode .idle, decode_phaseCode .palLoad, decode_phaseCode .rowStart,
    decode_phaseCode .pixelPair⟩
  rw [step_engine hs, prepared_eq_update]
  simp only [engineTurn, hb, if_true]
  cases s.phase <;> rfl

/-- A register read returns its image in the response and changes nothing else. -/
theorem readRegister_eq (r : Reg) (s : State) : readRegister r s = .next { s with response := .readOk (regValue r s) } := rfl

/-- Settles O35: each register's image of the reset state. -/
theorem registersAfterReset : Obligations.RegistersAfterReset :=
  ⟨readRegister_eq .ctrl _, readRegister_eq .status _, readRegister_eq .inLen _, readRegister_eq .errRequired _,
    readRegister_eq .errActual _, rfl, rfl, rfl, rfl, rfl, readByte_nil⟩

end Sys2Proof.Machine
end

section
/-! PROOFS. DecodeRef (40_decode_command.md R65) in the units of the datapath, and what one ENGINE step adds to the decode in progress. -/

namespace Sys2Proof.Safety

open Sys2Proof.Machine

/-- DecodeRef of a pixel looks at the ScanlineControl byte, the PixelPlane byte and the palette entry of the pixel, so it reads
only the bytes that DecodeRef needs (41_region_extraction.md R81). -/
theorem decodeRefPixel_congr {f g : Nat → Byte} (h : ∀ i, i < 32200 ∨ (32256 ≤ i ∧ i < 32768) → f i = g i) {y x : Nat}
    (hy : y < 200) (hx : x < 320) (ch : Nat) : decodeRefPixel f y x ch = decodeRefPixel g y x ch := by
  have hpal : refPalette f y = refPalette g y := by simp only [refPalette, h (32000 + y) (by omega)]
  have hidx : refIndex f y x = refIndex g y x := by simp only [refIndex, h (160 * y + x / 2) (by omega)]
  have hp : refPalette g y < 16 := Nat.mod_lt _ (by decide)
  have hi : refIndex g y x < 16 := by
    have := (g (160 * y + x / 2)).isLt
    unfold refIndex
    split <;> omega
  have hword : refWord f (refPalette g y) (refIndex g y x) = refWord g (refPalette g y) (refIndex g y x) := by
    simp only [refWord, h (32256 + 32 * refPalette g y + 2 * refIndex g y x) (by omega),
      h (32256 + 32 * refPalette g y + 2 * refIndex g y x + 1) (by omega)]
  simp only [decodeRefPixel, hpal, hidx, hword]

/-- Inputs that agree where DecodeRef reads have the same decode result. -/
theorem decodeRef_congr {f g : Nat → Byte} (h : ∀ i, i < 32200 ∨ (32256 ≤ i ∧ i < 32768) → f i = g i) {j : Nat}
    (hj : j < 256000) : decodeRef f j = decodeRef g j :=
  decodeRefPixel_congr h (by omega) (by omega) _

/-- DecodeRef at an offset is DecodeRef of the pixel and channel that stand there. -/
theorem decodeRef_outAddr (f : Nat → Byte) (y : Nat) {x k : Nat} (hx : x < 320) (hk : k < 4) :
    decodeRef f (outAddr y x + k) = decodeRefPixel f y x k := by
  have hy : (outAddr y x + k) / 4 / 320 = y := by simp only [outAddr, Config.bytesPerPixel, Config.width]; omega
  have hx' : (outAddr y x + k) / 4 % 320 = x := by simp only [outAddr, Config.bytesPerPixel, Config.width]; omega
  have hk' : (outAddr y x + k) % 4 = k := by simp only [outAddr, Config.bytesPerPixel, Config.width]; omega
  rw [decodeRef, hy, hx', hk']

/-- The active palette of DecodeRef is SCB_SELECT of the ScanlineControl byte. -/
theorem refPalette_eq (f : Nat → Byte) (y : Nat) : refPalette f y = (loNibble (f (scbAddr y))).toNat :=
  (loNibble_toNat _).symm

/-- The index of the left pixel of a PixelPlane byte is its high nibble. -/
theorem refIndex_left (f : Nat → Byte) (y c : Nat) : refIndex f y (2 * c) = (hiNibble (f (pixAddr y c))).toNat := by
  rw [hiNibble_toNat, refIndex, if_pos (by omega), show 2 * c / 2 = c by omega]
  rfl

/-- The index of the right pixel of a PixelPlane byte is its low nibble. -/
theorem refIndex_right (f : Nat → Byte) (y c : Nat) : refIndex f y (2 * c + 1) = (loNibble (f (pixAddr y c))).toNat := by
  rw [loNibble_toNat, refIndex, if_neg (by omega), show (2 * c + 1) / 2 = c by omega]
  rfl

/-- The colour word of DecodeRef is the COLOUR_WORD at PAL_ADDR. -/
theorem refWord_eq (f : Nat → Byte) (p c : Nibble) :
    refWord f p.toNat c.toNat = (colourWord (f (palAddr p c)) (f (palAddr p c + 1))).toNat :=
  (colourWord_toNat _ _).symm

/-- The bytes packed from a parsed colour word are the channels of DecodeRef. -/
theorem pixelBytes_parseEntry (lo hi : Byte) {k : Nat} (hk : k < 4) :
    (pixelBytes (parseEntry lo hi).r4 (parseEntry lo hi).g4 (parseEntry lo hi).b4)[k]? =
      some (if k < 3 then BitVec.ofNat 8 (17 * refChannel (colourWord lo hi).toNat k) else 255#8) := by
  match k, hk with
  | 0, _ | 1, _ | 2, _ =>
    simp [pixelBytes, parseEntry, expand, refChannel, wordRed, wordGreen, wordBlue, Nat.shiftRight_eq_div_pow]
  | 3, _ => rfl

/-- A pixel packed while the decode so far is right holds the bytes of DecodeRef: the looked-up entry is the parsed colour word of
the scanline's palette and the pixel's index (44_palette_lookup.md R90). -/
theorem pixelBytes_lookup {s : State} (hd : DecodeSoFar s) (hb : s.busy = true) (hp : s.phase = .pixelPair) {x : Nat}
    {idx : Nibble} (hi : refIndex (bytesOf s.inRam) s.row.toNat x = idx.toNat) {k : Nat} (hk : k < 4) :
    (pixelBytes (lookup s s.psel idx).r4 (lookup s s.psel idx).g4 (lookup s s.psel idx).b4)[k]? =
      some (decodeRefPixel (bytesOf s.inRam) s.row.toNat x k) := by
  have hloaded : 16 * s.psel.toNat + idx.toNat < loadedEntries s := by
    have := s.psel.isLt
    have := idx.isLt
    simp only [loadedEntries, hp, reduceCtorEq, if_false]
    omega
  have hsel : refPalette (bytesOf s.inRam) s.row.toNat = s.psel.toNat := by rw [refPalette_eq, ← hd.psel hb hp]
  rw [hd.pal hb _ _ hloaded, pixelBytes_parseEntry _ _ hk, decodeRefPixel, hi, hsel, refWord_eq]

/-- A pixel packed while the decode so far is right: its bytes in OUT_RAM are those of DecodeRef. -/
theorem readByte_packPixel_lookup {s u : State} (hd : DecodeSoFar s) (hb : s.busy = true) (hp : s.phase = .pixelPair)
    {x : Nat} (hx : x < 320) {idx : Nibble} (hi : refIndex (bytesOf s.inRam) s.row.toNat x = idx.toNat) {k : Nat}
    (hk : k < 4) : readByte (packPixel s.row.toNat x (lookup s s.psel idx) u).outRam (outAddr s.row.toNat x + k) =
      some (decodeRef (bytesOf s.inRam) (outAddr s.row.toNat x + k)) := by
  rw [readByte_packPixel_inside _ _ _ _ hk, pixelBytes_lookup hd hb hp hi hk, decodeRef_outAddr _ _ hx hk]

/-- Packing the two pixels of the byte at (ROW, COL) writes the next eight bytes of the result (46_rgba_packer.md R96). -/
theorem packPair_outRam {s : State} (hinv : BlockInv s) (hd : DecodeSoFar s) (hp : s.phase = .pixelPair) {b : Byte}
    (hb : readByte s.inRam (pixAddr s.row.toNat s.col.toNat) = some b) {j : Nat} (hj : j < writtenBytes s + 8) :
    readByte (packPair b s).outRam j = some (decodeRef (bytesOf s.inRam) j) := by
  have hbusy : s.busy = true := hinv.busy_iff.mpr (by simp [hp])
  have hcol := hinv.seq.col
  have hbyte : bytesOf s.inRam (pixAddr s.row.toNat s.col.toNat) = b := by simp [bytesOf, hb]
  have hl : outAddr s.row.toNat (2 * s.col.toNat) = writtenBytes s := by
    simp only [outAddr, writtenBytes, Config.bytesPerPixel, Config.width]; omega
  have hr : outAddr s.row.toNat (2 * s.col.toNat + 1) = writtenBytes s + 4 := by
    simp only [outAddr, writtenBytes, Config.bytesPerPixel, Config.width]; omega
  unfold packPair
  by_cases hright : writtenBytes s + 4 ≤ j
  · have hoff : j = outAddr s.row.toNat (2 * s.col.toNat + 1) + (j - (writtenBytes s + 4)) := by omega
    rw [hoff]
    exact readByte_packPixel_lookup hd hbusy hp (by omega) (by rw [refIndex_right, hbyte]) (by omega)
  · rw [readByte_packPixel_outside _ _ _ _ (by omega)]
    by_cases hleft : writtenBytes s ≤ j
    · have hoff : j = outAddr s.row.toNat (2 * s.col.toNat) + (j - writtenBytes s) := by omega
      rw [hoff]
      exact readByte_packPixel_lookup hd hbusy hp (by omega) (by rw [refIndex_left, hbyte]) (by omega)
    · rw [readByte_packPixel_outside _ _ _ _ (by omega)]
      exact hd.out hbusy j (by omega)

/-- What the turn of a busy ENGINE can do, by PHASE, with the IN_RAM bytes it read. -/
theorem engineTurn_cases {s t : State} (hinv : BlockInv s) (hb : s.busy = true) (h : exec (engineTurn s) s = .next t) :
    (s.phase = .palLoad ∧ ∃ lo hi, readByte s.inRam (palAddr (pidxPalette s.pidx) (pidxColour s.pidx)) = some lo ∧
      readByte s.inRam (palAddr (pidxPalette s.pidx) (pidxColour s.pidx) + 1) = some hi ∧
      t = advancePidx (setPal (palIndex (pidxPalette s.pidx) (pidxColour s.pidx)) (parseEntry lo hi) s)) ∨
    (s.phase = .rowStart ∧ ∃ b, readByte s.inRam (scbAddr s.row.toNat) = some b ∧
      t = { s with psel := loNibble b, phase := .pixelPair }) ∨
    (s.phase = .pixelPair ∧ ∃ b, readByte s.inRam (pixAddr s.row.toNat s.col.toNat) = some b ∧
      t = advancePosition (setOutRam (packPair b s).outRam s)) := by
  rw [engineTurn_of_busy hb] at h
  cases hp : s.phase with
  | idle => exact absurd hp (hinv.busy_iff.mp hb)
  | palLoad => rw [hp] at h; exact .inl ⟨rfl, execSeqPalLoad_next h⟩
  | rowStart => rw [hp] at h; exact .inr (.inl ⟨rfl, execSeqRowStart_next h⟩)
  | pixelPair => rw [hp] at h; exact .inr (.inr ⟨rfl, execSeqPixelPair_next h⟩)

/-- With the input written no ENGINE step can fail (40_decode_command.md R74). -/
theorem engineTurn_succeeds {s : State} (hinv : BlockInv s) (hb : s.busy = true) (hw : inputWritten s.inRam) :
    ∃ t, exec (engineTurn s) s = .next t := by
  have hrow := hinv.seq.row
  have hcol := hinv.seq.col
  have hread : ∀ i, i < 32200 ∨ (32256 ≤ i ∧ i < 32768) → ∃ b, readByte s.inRam i = some b :=
    fun i hi => Option.isSome_iff_exists.mp (hw i hi)
  rw [engineTurn_of_busy hb]
  cases hp : s.phase with
  | idle => exact absurd hp (hinv.busy_iff.mp hb)
  | palLoad =>
    have hpidx := s.pidx.isLt
    have ha := palAddr_pidx s.pidx
    obtain ⟨lo, hlo⟩ := hread (palAddr (pidxPalette s.pidx) (pidxColour s.pidx)) (by omega)
    obtain ⟨hi, hhi⟩ := hread (palAddr (pidxPalette s.pidx) (pidxColour s.pidx) + 1) (by omega)
    exact ⟨_, (engineRead_of_written hlo).trans (engineRead_of_written hhi)⟩
  | rowStart =>
    obtain ⟨b, hb⟩ := hread (scbAddr s.row.toNat) (by simp only [scbAddr, Config.scbBase]; omega)
    exact ⟨_, engineRead_of_written hb⟩
  | pixelPair =>
    obtain ⟨b, hb⟩ := hread (pixAddr s.row.toNat s.col.toNat) (by simp only [pixAddr, Config.bytesPerRow]; omega)
    exact ⟨_, engineRead_of_written hb⟩

theorem isEngineStep_engineTurn (s : State) : isEngineStep (engineTurn s) = true := by
  unfold engineTurn
  cases s.busy with
  | false => rfl
  | true => cases s.phase <;> rfl

/-- The ENGINE writes neither IN_RAM, IN_LEN nor the inputs. -/
theorem engineTurn_frame {s t : State} (h : exec (engineTurn s) s = .next t) :
    t.inRam = s.inRam ∧ t.inLen = s.inLen ∧ t.inputs = s.inputs := by
  obtain ⟨hin, -, hlen, -, -, -, -, hinputs⟩ := eachStateHasItsOwnWriters _ s t h
  have hstep := isEngineStep_engineTurn s
  refine ⟨?_, ?_, hinputs⟩
  · by_contra hne
    obtain ⟨-, n, a, v, hi⟩ := hin hne
    rw [hi] at hstep
    cases hstep
  · by_contra hne
    obtain ⟨d, hi⟩ := hlen hne
    rw [hi] at hstep
    cases hstep

/-- Each step of a busy ENGINE takes the decode one step nearer its end (70_reset_and_hazards.md R137). -/
theorem remainingSteps_engineTurn {s t : State} (hinv : BlockInv s) (hb : s.busy = true)
    (h : exec (engineTurn s) s = .next t) : remainingSteps t + 1 = remainingSteps s := by
  have hrow := hinv.seq.row
  have hcol := hinv.seq.col
  obtain ⟨hp, lo, hi, -, -, rfl⟩ | ⟨hp, b, -, rfl⟩ | ⟨hp, b, -, rfl⟩ := engineTurn_cases hinv hb h
  · obtain ⟨hr, -⟩ := hinv.seq.palLoad hp
    obtain ⟨hlast, he⟩ | ⟨hmore, he⟩ :=
      advancePidx_cases (setPal (palIndex (pidxPalette s.pidx) (pidxColour s.pidx)) (parseEntry lo hi) s) <;> rw [he]
    · have hlast : s.pidx = 255#8 := hlast
      simp [remainingSteps, hb, hp, hr, hlast]
    · have hmore : s.pidx ≠ 255#8 := hmore
      simp only [remainingSteps, setPal_busy, setPal_phase, setPal_pidx, hb, hp, if_true]
      bv_omega
  · obtain ⟨-, hc⟩ := hinv.seq.rowStart hp
    simp only [remainingSteps, hb, hp, hc, if_true, BitVec.toNat_ofNat]
    omega
  · obtain ⟨hc, he⟩ | ⟨hc, hr, he⟩ | ⟨hc, hr, he⟩ := advancePosition_cases (setOutRam (packPair b s).outRam s) <;>
      simp only [setOutRam_col] at hc <;> rw [he]
    · simp only [remainingSteps, setOutRam_busy, setOutRam_phase, setOutRam_row, setOutRam_col, hb, hp, if_true]
      bv_omega
    · simp only [setOutRam_row] at hr
      simp only [remainingSteps, setOutRam_busy, setOutRam_row, hb, hp, if_true]
      bv_omega
    · simp only [setOutRam_row] at hr
      simp only [remainingSteps, finishDecode_busy, hb, hp, if_true, Bool.false_eq_true, if_false]
      omega

/-- Loading entry PIDX extends what is loaded by that entry. -/
theorem lookup_loaded {s : State} (hb : s.busy = true) (hp : s.phase = .palLoad) (hd : DecodeSoFar s) {lo hi : Byte}
    (hlo : readByte s.inRam (palAddr (pidxPalette s.pidx) (pidxColour s.pidx)) = some lo)
    (hhi : readByte s.inRam (palAddr (pidxPalette s.pidx) (pidxColour s.pidx) + 1) = some hi) {p c : Nibble}
    (hpc : 16 * p.toNat + c.toNat < s.pidx.toNat + 1) :
    lookup (setPal (palIndex (pidxPalette s.pidx) (pidxColour s.pidx)) (parseEntry lo hi) s) p c =
      parseEntry (bytesOf s.inRam (palAddr p c)) (bytesOf s.inRam (palAddr p c + 1)) := by
  rw [lookup_setPal]
  split
  · next heq =>
    obtain ⟨rfl, rfl⟩ := palIndex_inj heq
    simp [bytesOf, hlo, hhi]
  · next hne =>
    have hne : s.pidx.toNat ≠ 16 * p.toNat + c.toNat := by rw [← palIndex_pidx]; exact hne
    exact hd.pal hb p c (by simp only [loadedEntries, hp, if_true]; omega)

/-- SEQ_PAL_LOAD keeps the decode so far right. -/
theorem DecodeSoFar.palLoad {s : State} (hinv : BlockInv s) (hd : DecodeSoFar s) (hp : s.phase = .palLoad) {lo hi : Byte}
    (hlo : readByte s.inRam (palAddr (pidxPalette s.pidx) (pidxColour s.pidx)) = some lo)
    (hhi : readByte s.inRam (palAddr (pidxPalette s.pidx) (pidxColour s.pidx) + 1) = some hi) :
    DecodeSoFar (advancePidx (setPal (palIndex (pidxPalette s.pidx) (pidxColour s.pidx)) (parseEntry lo hi) s)) := by
  have hb : s.busy = true := hinv.busy_iff.mpr (by simp [hp])
  obtain ⟨hr, hc⟩ := hinv.seq.palLoad hp
  obtain ⟨hlast, he⟩ | ⟨hmore, he⟩ :=
    advancePidx_cases (setPal (palIndex (pidxPalette s.pidx) (pidxColour s.pidx)) (parseEntry lo hi) s) <;> rw [he]
  · have hlast : s.pidx = 255#8 := hlast
    refine ⟨fun _ p c _ => lookup_loaded hb hp hd hlo hhi ?_, fun _ h => ?_, fun _ j hj => ?_⟩
    · have := p.isLt
      have := c.isLt
      rw [hlast, BitVec.toNat_ofNat]
      omega
    · cases h
    · simp [writtenBytes, hr, hc] at hj
  · have hmore : s.pidx ≠ 255#8 := hmore
    refine ⟨fun _ p c h => lookup_loaded hb hp hd hlo hhi ?_, fun _ h => ?_, fun _ j hj => ?_⟩
    · simp only [loadedEntries, setPal_phase, setPal_pidx, hp, if_true] at h
      bv_omega
    · simp [hp] at h
    · simp [writtenBytes, hr, hc] at hj

/-- SEQ_ROW_START keeps the decode so far right. -/
theorem DecodeSoFar.rowStart {s : State} (hinv : BlockInv s) (hd : DecodeSoFar s) (hp : s.phase = .rowStart) {b : Byte}
    (hr : readByte s.inRam (scbAddr s.row.toNat) = some b) :
    DecodeSoFar { s with psel := loNibble b, phase := .pixelPair } := by
  have hb : s.busy = true := hinv.busy_iff.mpr (by simp [hp])
  refine ⟨fun _ p c h => hd.pal hb p c ?_, fun _ _ => ?_, hd.out⟩
  · simpa [loadedEntries, hp] using h
  · simp [bytesOf, hr]

/-- SEQ_PIXEL_PAIR keeps the decode so far right, and when it is the last the result is complete. -/
theorem DecodeSoFar.pixelPair {s t : State} (hinv : BlockInv s) (hd : DecodeSoFar s) (hp : s.phase = .pixelPair) {b : Byte}
    (hr : readByte s.inRam (pixAddr s.row.toNat s.col.toNat) = some b)
    (ht : t = advancePosition (setOutRam (packPair b s).outRam s)) :
    DecodeSoFar t ∧ (t.busy = true ∨ (t.busy = false ∧ t.done = true ∧ outputCorrect t)) := by
  have hb : s.busy = true := hinv.busy_iff.mpr (by simp [hp])
  have hrow := hinv.seq.row
  have hcol := hinv.seq.col
  have hout : ∀ j, j < writtenBytes s + 8 → readByte (packPair b s).outRam j = some (decodeRef (bytesOf s.inRam) j) :=
    fun j hj => packPair_outRam hinv hd hp hr hj
  have hpal : ∀ p c : Nibble,
      lookup s p c = parseEntry (bytesOf s.inRam (palAddr p c)) (bytesOf s.inRam (palAddr p c + 1)) := by
    intro p c
    have := p.isLt
    have := c.isLt
    exact hd.pal hb p c (by simp only [loadedEntries, hp, reduceCtorEq, if_false]; omega)
  obtain ⟨hc, he⟩ | ⟨hc, hr', he⟩ | ⟨hc, hr', he⟩ := advancePosition_cases (setOutRam (packPair b s).outRam s) <;>
    simp only [setOutRam_col] at hc <;> rw [he] at ht <;> subst ht
  · refine ⟨⟨fun _ p c _ => hpal p c, fun _ _ => hd.psel hb hp, fun _ j hj => hout j ?_⟩, .inl hb⟩
    simp only [writtenBytes, setOutRam_row, setOutRam_col] at hj
    simp only [writtenBytes]
    bv_omega
  · simp only [setOutRam_row] at hr'
    refine ⟨⟨fun _ p c _ => hpal p c, fun _ h => ?_, fun _ j hj => hout j ?_⟩, .inl hb⟩
    · cases h
    · simp only [writtenBytes, setOutRam_row] at hj
      simp only [writtenBytes]
      bv_omega
  · simp only [setOutRam_row] at hr'
    refine ⟨⟨fun h => ?_, fun h => ?_, fun h => ?_⟩, .inr ⟨rfl, rfl, fun j hj => hout j ?_⟩⟩
    · cases h
    · cases h
    · cases h
    · simp only [Config.outSize] at hj
      simp only [writtenBytes]
      omega

/-- A step of a busy ENGINE keeps the decode so far right; after the last one OUT_RAM is the decode result (40_decode_command.md
R70). -/
theorem decodeSoFar_engineTurn {s t : State} (hinv : BlockInv s) (hb : s.busy = true) (hd : DecodeSoFar s)
    (h : exec (engineTurn s) s = .next t) :
    DecodeSoFar t ∧ (t.busy = true ∨ (t.busy = false ∧ t.done = true ∧ outputCorrect t)) := by
  obtain ⟨hp, lo, hi, hlo, hhi, rfl⟩ | ⟨hp, b, hr, rfl⟩ | ⟨hp, b, hr, ht⟩ := engineTurn_cases hinv hb h
  · refine ⟨hd.palLoad hinv hp hlo hhi, .inl ?_⟩
    obtain ⟨p, ph, he⟩ :=
      advancePidx_frame (setPal (palIndex (pidxPalette s.pidx) (pidxColour s.pidx)) (parseEntry lo hi) s)
    rw [he]
    exact hb
  · exact ⟨hd.rowStart hinv hp hr, .inl hb⟩
  · exact hd.pixelPair hinv hp hr ht

end Sys2Proof.Safety
end

section
/-! PROOFS. The run of a decode: from a busy block that no HOST accesses, the remaining ENGINE steps complete it. -/

namespace Sys2Proof.Machine

/-- A run of j + k steps is a run of j and a run of k from where it ends, on any machine. -/
theorem coreRun_add (M : Host.Core) {s t : M.State} (j k : Nat) (h : M.run j s = .next t) :
    M.run (j + k) s = M.run k t := by
  induction j generalizing s with
  | zero => cases h; rw [Nat.zero_add]
  | succ j ih =>
    rw [Nat.succ_add]
    simp only [Host.Core.run] at h ⊢
    cases hs : M.step s with
    | next u => rw [hs] at h; exact ih h
    | fault f => rw [hs] at h; cases h
    | refused r => rw [hs] at h; cases h

/-- A run of j + k steps of the block is a run of j and a run of k from where it ends. -/
theorem run_add {s t : State} (j k : Nat) (h : Host.Core.run Sys2Proof.core j s = .next t) :
    Host.Core.run Sys2Proof.core (j + k) s = Host.Core.run Sys2Proof.core k t :=
  coreRun_add Sys2Proof.core j k h

/-- One step is a run of length 1. -/
theorem run_one {s t : State} (h : step s = .next t) : Host.Core.run Sys2Proof.core 1 s = .next t :=
  run_succ_of_step 0 h

end Sys2Proof.Machine

namespace Sys2Proof.Safety

open Sys2Proof.Machine

/-- The decode so far does not speak of the model's own fields. -/
theorem DecodeSoFar.prepared {s : State} (h : DecodeSoFar s) (i : Instr) (es : List Input) :
    DecodeSoFar (prepared i es s) := by
  obtain ⟨n, hp⟩ := prepared_eq i es s
  rw [hp]
  exact { h with }

/-- One step of a busy block with written input that no HOST accesses. -/
theorem step_decode {s : State} (hinv : BlockInv s) (hd : DecodeSoFar s) (hb : s.busy = true) (hw : inputWritten s.inRam)
    (hs : s.inputs = []) :
    ∃ t, step s = .next t ∧ BlockInv t ∧ DecodeSoFar t ∧ t.inRam = s.inRam ∧ t.inLen = s.inLen ∧ t.inputs = [] ∧
      remainingSteps t + 1 = remainingSteps s ∧ (t.busy = true ∨ (t.busy = false ∧ t.done = true ∧ outputCorrect t)) := by
  have hinv' := hinv.prepared (engineTurn s) []
  have hd' := hd.prepared (engineTurn s) []
  have hturn := engineTurn_prepared (engineTurn s) [] s
  obtain ⟨n, hp⟩ := prepared_eq (engineTurn s) [] s
  have hstep := step_empty hs
  rw [hp] at hinv' hd' hturn hstep
  obtain ⟨t, ht⟩ := engineTurn_succeeds hinv' hb hw
  have hrem := remainingSteps_engineTurn hinv' hb ht
  obtain ⟨hdt, hend⟩ := decodeSoFar_engineTurn hinv' hb hd' ht
  obtain ⟨hin, hlen, hinputs⟩ := engineTurn_frame ht
  rw [hturn] at ht
  have hst : step s = .next t := hstep.trans ht
  exact ⟨t, hst, stepKeepsTheInvariant s t hinv hst, hdt, hin, hlen, hinputs, hrem, hend⟩

/-- A block in a decode has steps left. -/
theorem remainingSteps_pos {s : State} (hinv : BlockInv s) (hb : s.busy = true) : 0 < remainingSteps s := by
  have hrow := hinv.seq.row
  have hcol := hinv.seq.col
  have hpidx := s.pidx.isLt
  unfold remainingSteps
  rw [if_pos hb]
  cases hp : s.phase with
  | idle => exact absurd hp (hinv.busy_iff.mp hb)
  | palLoad | rowStart | pixelPair => simp only; omega

/-- The decode in progress completes in exactly the remaining steps, with OUT_RAM the decode result of IN_RAM. -/
theorem run_decode {s : State} (hinv : BlockInv s) (hd : DecodeSoFar s) (hb : s.busy = true) (hw : inputWritten s.inRam)
    (hs : s.inputs = []) :
    ∃ t, Host.Core.run Sys2Proof.core (remainingSteps s) s = .next t ∧ BlockInv t ∧ t.done = true ∧ t.busy = false ∧
      outputCorrect t ∧ t.inRam = s.inRam ∧ t.inLen = s.inLen := by
  induction hk : remainingSteps s generalizing s with
  | zero => exact absurd hk (Nat.ne_of_gt (remainingSteps_pos hinv hb))
  | succ k ih =>
    obtain ⟨t, hst, hinvt, hdt, hin, hlen, hinputs, hrem, hend⟩ := step_decode hinv hd hb hw hs
    have hkt : remainingSteps t = k := by omega
    rw [run_succ_of_step k hst]
    obtain hbt | ⟨hbt, hdone, hout⟩ := hend
    · rw [← hin, ← hlen]
      exact ih hinvt hdt hbt (hin ▸ hw) hinputs hkt
    · have hk0 : k = 0 := by rw [← hkt]; simp [remainingSteps, hbt]
      subst hk0
      exact ⟨t, rfl, hinvt, hdone, hbt, hout, hin, hlen⟩

/-- Nothing is loaded or written when the ENGINE starts. -/
theorem startEngine_soFar (s : State) : DecodeSoFar (startEngine s) := by
  refine ⟨fun _ p c h => ?_, fun _ h => ?_, fun _ j h => ?_⟩
  · simp [loadedEntries] at h
  · cases h
  · simp [writtenBytes] at h

/-- A decode takes 256 + 161 * 200 ENGINE steps (70_reset_and_hazards.md R137). -/
theorem remainingSteps_startEngine (s : State) : remainingSteps (startEngine s) = 32456 := by
  simp [remainingSteps]

end Sys2Proof.Safety
end

section
/-! PROOFS. The HOST presents an input and issues DECODE (70_reset_and_hazards.md R130): what each of its writes does, and the source's
operation decode(raw). -/

namespace Sys2Proof.Machine

/-- A HOST write of IN_RAM that passes the checks, while BUSY = 0. -/
theorem step_hostWrite_inRam {s : State} {n : Width} {a : Offset} {v : Word} {es : List Input}
    (hs : s.inputs = hostWrite n a v :: es) (ha : passesIn .inRam n a = true) (hv : fitsWidth n v = true)
    (hb : s.busy = false) : step s = .next { s with
      inRam := memWrite s.inRam a.toNat (nBytes n) v, inputs := es, response := .writeOk, draws := s.draws + 1 } := by
  obtain ⟨hc, hr⟩ := passesIn_iff.mp ha
  have hdec : decode ⟨.busTxn, txnKey .wr n a, v⟩ = .ok (.inWr n a v) := by
    rw [decode_txnKey, decodeFields_passes (dir := .wr) hv hc, selectTxn, hr]
  rw [step_bus hs hdec, prepared_eq_update]
  refine (execInWr_of_passes ha).trans ?_
  simp only [hb, Bool.false_eq_true, if_false]
  rfl

/-- A HOST write of a register. -/
theorem step_hostWrite_reg {s : State} {r : Reg} {d : Word} {es : List Input}
    (hs : s.inputs = hostWrite .four (regOffset r) d :: es) :
    step s = .next (respond .writeOk (regWrite r d (tick (setInputs es s)))) := by
  rw [step_bus hs (decode_reg .wr r d (dataOk_wr_four d))]
  cases r <;> rfl

/-- Every single byte of IN_RAM may be accessed. -/
theorem passesIn_inRam_one {a : Offset} (h : a.toNat < 32768) : passesIn .inRam .one a = true := by
  have hin : insideRegion .inRam .one a = true :=
    insideRegion_iff.mpr ⟨Nat.zero_le _, by simp only [nBytes, regionBase, regionSize, Config.inSize]; omega⟩
  exact passesIn_iff.mpr ⟨busCheck_eq_none.mpr ⟨.inRam, hin, rfl, Nat.mod_one _⟩, regionOf_eq_some.mpr hin⟩

/-- A byte write stores the byte. -/
theorem memWrite_one (m : Memory) (a : Nat) (b : Byte) : memWrite m a 1 (b.setWidth 32) = writeByte m a b := by
  have hb : byteOf (b.setWidth 32) 0 = b := by
    have := b.isLt
    apply BitVec.eq_of_toNat_eq
    rw [byteOf_toNat, BitVec.toNat_setWidth]
    omega
  simp [memWrite, leBytes, storeBytes, hb]

/-- One byte of an input written by the HOST. -/
theorem step_hostWrite_byte {s : State} {a : Nat} {b : Byte} {es : List Input} (ha : a < 32768)
    (hs : s.inputs = hostWrite .one (BitVec.ofNat 20 a) (b.setWidth 32) :: es) (hb : s.busy = false) :
    step s = .next { s with
      inRam := writeByte s.inRam a b, inputs := es, response := .writeOk, draws := s.draws + 1 } := by
  have hoff : (BitVec.ofNat 20 a).toNat = a := by rw [BitVec.toNat_ofNat]; omega
  have hfits : fitsWidth .one (b.setWidth 32) = true := by
    have := b.isLt
    refine decide_eq_true ?_
    rw [BitVec.toNat_setWidth, widthLimit]
    omega
  rw [step_hostWrite_inRam hs (passesIn_inRam_one (by omega)) hfits hb, hoff]
  simp only [nBytes, memWrite_one]

/-- Writing the bytes of an input one by one stores them, and changes nothing else but the model's own fields. -/
theorem run_loadBytes {bs : List Byte} {a : Nat} {s : State} {es : List Input} (ha : a + bs.length ≤ 32768)
    (hs : s.inputs = loadBytes a bs ++ es) (hb : s.busy = false) :
    ∃ r n, Host.Core.run Sys2Proof.core bs.length s =
      .next { s with inRam := storeBytes s.inRam a bs, inputs := es, response := r, draws := n } := by
  induction bs generalizing a s with
  | nil =>
    have hs : s.inputs = es := hs
    subst hs
    exact ⟨s.response, s.draws, rfl⟩
  | cons b bs ih =>
    rw [List.length_cons] at ha
    have hstep := step_hostWrite_byte (by omega) hs hb
    obtain ⟨r, n, hrun⟩ := ih (a := a + 1)
      (s := { s with
        inRam := writeByte s.inRam a b, inputs := loadBytes (a + 1) bs ++ es, response := .writeOk, draws := s.draws + 1 })
      (by omega) rfl hb
    exact ⟨r, n, (run_succ_of_step bs.length hstep).trans hrun⟩

/-- The HOST presents an input in an idle state: IN_RAM holds its bytes and IN_LEN its length. -/
theorem run_presentInput {raw : List Byte} {s : State} {es : List Input} (hs : s.inputs = presentInput raw ++ es)
    (hb : s.busy = false) :
    ∃ r n, Host.Core.run Sys2Proof.core ((raw.take 32768).length + 1) s =
      .next { s with inRam := storeBytes s.inRam 0 (raw.take 32768), inLen := BitVec.ofNat 32 (min raw.length 0xFFFFFFFF),
                     inputs := es, response := r, draws := n } := by
  rw [presentInput, List.append_assoc] at hs
  have hlen : 0 + (raw.take 32768).length ≤ 32768 := by rw [List.length_take]; omega
  obtain ⟨r, n, hrun⟩ := run_loadBytes hlen hs hb
  rw [run_add _ 1 hrun]
  exact ⟨.writeOk, n + 1, run_one (step_hostWrite_reg (r := .inLen) rfl)⟩

/-- The bytes of an input after they are stored from offset 0. -/
theorem readByte_storeBytes_zero (m : Memory) (bs : List Byte) {i : Nat} (h : i < bs.length) :
    readByte (storeBytes m 0 bs) i = some bs[i] := by
  have hr := readByte_storeBytes_inside m 0 bs h
  rwa [Nat.zero_add] at hr

/-- The `DECODE` pseudo-instruction issues DECODE. -/
theorem step_pseudoDecode {s : State} (hs : s.inputs = pseudoDecode) :
    step s = .next (respond .writeOk (issueDecode (tick (setInputs [] s)))) :=
  step_hostWrite_reg (r := .ctrl) hs

end Sys2Proof.Machine

namespace Sys2Proof.Safety

open Sys2Proof.Machine

/-- An idle block with the input written and IN_LEN long enough runs a whole decode. -/
theorem run_pseudoDecode {s : State} (hinv : BlockInv s) (hb : s.busy = false) (hlen : 32768 ≤ s.inLen.toNat)
    (hw : inputWritten s.inRam) (hs : s.inputs = pseudoDecode) :
    ∃ t, Host.Core.run Sys2Proof.core (1 + 32456) s = .next t ∧ BlockInv t ∧ t.done = true ∧ t.busy = false ∧
      outputCorrect t ∧ t.inRam = s.inRam ∧ t.inLen = s.inLen := by
  have hstep := step_pseudoDecode hs
  obtain ⟨hbusy, -⟩ | ⟨-, hshort, -⟩ | ⟨-, -, he⟩ := issueDecode_cases (tick (setInputs [] s))
  · rw [tick_busy, setInputs_busy, hb] at hbusy
    cases hbusy
  · rw [tick_inLen, setInputs_inLen] at hshort
    omega
  · rw [he] at hstep
    obtain ⟨t, ht, hend⟩ :=
      run_decode (stepKeepsTheInvariant s _ hinv hstep) { startEngine_soFar _ with } rfl hw rfl
    have hrem : remainingSteps (respond .writeOk (startEngine (clearRecord (tick (setInputs [] s))))) = 32456 :=
      remainingSteps_startEngine (clearRecord (tick (setInputs [] s)))
    rw [hrem] at ht
    exact ⟨t, (run_add 1 32456 (run_one hstep)).trans ht, hend⟩

/-- An idle block with IN_LEN too short takes the error and keeps OUT_RAM (60_exceptions.md R112). -/
theorem step_pseudoDecode_short {s : State} (hb : s.busy = false) (hlen : s.inLen.toNat < 32768)
    (hs : s.inputs = pseudoDecode) :
    ∃ t, step s = .next t ∧ t.err = true ∧ t.errcode = 1#4 ∧ t.errActual = s.inLen ∧ t.busy = false ∧ t.done = false ∧
      t.outRam = s.outRam := by
  have hstep := step_pseudoDecode hs
  obtain ⟨hbusy, -⟩ | ⟨-, -, he⟩ | ⟨-, hlong, -⟩ := issueDecode_cases (tick (setInputs [] s))
  · rw [tick_busy, setInputs_busy, hb] at hbusy
    cases hbusy
  · rw [he] at hstep
    exact ⟨_, hstep, rfl, rfl, rfl, hb, rfl, rfl⟩
  · rw [tick_inLen, setInputs_inLen] at hlong
    omega

/-- A whole input in IN_RAM: every byte is written and holds the byte of the sequence. -/
theorem inputWritten_storeBytes (m : Memory) {bs : List Byte} (h : 32768 ≤ bs.length) :
    inputWritten (storeBytes m 0 bs) := by
  intro i hi
  rw [readByte_storeBytes_zero m bs (by omega)]
  rfl

/-- DecodeRef of an IN_RAM that holds the first 32768 bytes of a sequence is DecodeRef of the sequence. -/
theorem decodeRef_storeBytes (m : Memory) {raw : List Byte} (h : 32768 ≤ raw.length) {j : Nat} (hj : j < 256000) :
    decodeRef (bytesOf (storeBytes m 0 (raw.take 32768))) j = decodeRef (fun i => raw.getD i 0#8) j := by
  refine decodeRef_congr (fun i hi => ?_) hj
  have hi : i < 32768 := by omega
  have hi' : i < (raw.take 32768).length := by rw [List.length_take]; omega
  rw [bytesOf, readByte_storeBytes_zero m _ hi', List.getElem_take]
  exact (List.getD_eq_getElem _ _ (by omega)).symm

/-- Settles O50: presenting the input leaves an idle state with its bytes and length, from which DECODE runs the whole decode or takes
the error. -/
theorem presentedInputIsDecodedOrRejected : Obligations.PresentedInputIsDecodedOrRejected := by
  intro s raw hinv hb hs
  obtain ⟨r, n, hrun⟩ := run_presentInput hs hb
  have hinv' := hinv.run hrun
  refine ⟨fun hlong => ?_, fun hshort => ?_⟩
  · have htake : (raw.take 32768).length = 32768 := by rw [List.length_take]; omega
    have hlen : 32768 ≤ (BitVec.ofNat 32 (min raw.length 0xFFFFFFFF)).toNat := by rw [BitVec.toNat_ofNat]; omega
    obtain ⟨t, ht, -, hdone, hbusy, hout, hin, -⟩ :=
      run_pseudoDecode hinv' hb hlen (inputWritten_storeBytes _ htake.ge) rfl
    have hsteps : 32768 + 2 + 32456 = (raw.take 32768).length + 1 + (1 + 32456) := by omega
    refine ⟨t, hsteps ▸ (run_add _ _ hrun).trans ht, hdone, hbusy, fun j hj => ?_⟩
    rw [hout j hj, hin, decodeRef_storeBytes _ hlong hj]
  · have htake : (raw.take 32768).length = raw.length := by rw [List.length_take]; omega
    have hlen : (BitVec.ofNat 32 (min raw.length 0xFFFFFFFF)).toNat = raw.length := by rw [BitVec.toNat_ofNat]; omega
    obtain ⟨t, ht, herr, hcode, hactual, hbusy, hdone, hout⟩ :=
      step_pseudoDecode_short (s := { s with
        inRam := storeBytes s.inRam 0 (raw.take 32768), inLen := BitVec.ofNat 32 (min raw.length 0xFFFFFFFF),
        inputs := pseudoDecode, response := r, draws := n }) hb (hlen.trans_lt hshort) rfl
    rw [htake] at hrun
    exact ⟨t, (run_add (raw.length + 1) 1 hrun).trans (run_one ht), herr, hcode, by rw [hactual, hlen], hbusy, hdone, hout⟩

end Sys2Proof.Safety
end

section
/-! PROOFS. The checks of a HOST access (20_memory.md R33, R36, R37, R40), by the region that holds its bytes. -/

namespace Sys2Proof.Machine

/-- The checks of an access whose bytes are inside a region: the width, then the alignment. -/
theorem busCheck_of_inside {r : Region} {n : Width} {a : Offset} (h : insideRegion r n a = true) :
    busCheck n a = if acceptsWidth r n = false then some .width
      else if a.toNat % nBytes n ≠ 0 then some .misaligned else none := by
  simp only [busCheck, regionOf_eq_some.mpr h]

/-- An access that is inside no region is UNMAPPED. -/
theorem busCheck_of_outside {n : Width} {a : Offset} (h : ∀ r, insideRegion r n a = false) :
    busCheck n a = some .unmapped := by
  simp only [busCheck, regionOf_eq_none.mpr h]

/-- The register window alone refuses a width, every one but 4. -/
theorem acceptsWidth_iff {r : Region} {n : Width} : acceptsWidth r n = true ↔ (r = .regs → n = .four) := by
  cases r <;> cases n <;> simp [acceptsWidth]

/-- Settles O9: the bounds of the three regions are `insideRegion`, and the checks are those of the region found. -/
theorem accessChecksInOrder : Obligations.AccessChecksInOrder := by
  intro n a within mapped
  have hinside : mapped → ∃ r, insideRegion r n a = true := by
    rintro (h | h | h)
    · exact ⟨.inRam, insideRegion_iff.mpr h⟩
    · exact ⟨.regs, insideRegion_iff.mpr h⟩
    · exact ⟨.outRam, insideRegion_iff.mpr h⟩
  have hmapped : ∀ r, insideRegion r n a = true → mapped := by
    intro r h
    cases r with
    | inRam => exact .inl (insideRegion_iff.mp h)
    | regs => exact .inr (.inl (insideRegion_iff.mp h))
    | outRam => exact .inr (.inr (insideRegion_iff.mp h))
  have haccepts : ∀ r, insideRegion r n a = true → (within 0x08000 20 → n = .four) → acceptsWidth r n = true := by
    intro r h hw
    exact acceptsWidth_iff.mpr fun hr => hw (insideRegion_iff (r := .regs).mp (hr ▸ h))
  refine ⟨fun hm => ?_, fun h hn => ?_, fun hm hw ha => ?_, fun hm hw ha => ?_⟩
  · exact busCheck_of_outside fun r => Bool.eq_false_iff.mpr fun h => hm (hmapped r h)
  · have hacc : acceptsWidth .regs n = false := Bool.eq_false_iff.mpr fun h => hn (acceptsWidth_iff.mp h rfl)
    rw [busCheck_of_inside (r := .regs) (insideRegion_iff.mpr h), if_pos hacc]
  · obtain ⟨r, h⟩ := hinside hm
    simp [busCheck_of_inside h, haccepts r h hw, ha]
  · obtain ⟨r, h⟩ := hinside hm
    exact busCheck_eq_none.mpr ⟨r, h, haccepts r h hw, ha⟩

end Sys2Proof.Machine
end

section
/-! PROOFS. What a bus transaction decodes to, said once (30_encoding.md R58, R61). -/

namespace Sys2Proof

open Sys2Proof.Machine

/-- The operations a bus transaction with data v decodes to; `busTxn_of_decode` ties it to the decoder. -/
inductive BusTxn (v : Word) : Instr → Prop where
  | inRd {n : Width} {a : Offset} (ha : passesIn .inRam n a = true) : BusTxn v (.inRd n a)
  | inWr {n : Width} {a : Offset} (ha : passesIn .inRam n a = true) (hv : fitsWidth n v = true) : BusTxn v (.inWr n a v)
  | outRd {n : Width} {a : Offset} (ha : passesIn .outRam n a = true) : BusTxn v (.outRd n a)
  | outWr {n : Width} {a : Offset} (ha : passesIn .outRam n a = true) (hv : fitsWidth n v = true) :
      BusTxn v (.outWr n a v)
  | reg {i : Instr} (dir : Dir) (r : Reg) (hi : i = selectReg dir r v) : BusTxn v i
  | fault {dir : Dir} {n : Width} {a : Offset} {c : BusCause} (hc : busCheck n a = some c) (hd : dataOk dir n v = true) :
      BusTxn v (.busFault dir n a v)

/-- An access that passes its checks, with its data in order, decodes to the operation of its region. -/
theorem busTxn_of_selectTxn {dir : Dir} {n : Width} {a : Offset} {v : Word} {i : Instr} (hc : busCheck n a = none)
    (hd : dataOk dir n v = true) (h : selectTxn dir n a v = .ok i) : BusTxn v i := by
  unfold selectTxn at h
  split at h
  · next hr =>
    have ha := passesIn_iff.mpr ⟨hc, hr⟩
    cases dir <;> cases h
    · exact .inRd ha
    · exact .inWr ha hd
  · next hr =>
    have ha := passesIn_iff.mpr ⟨hc, hr⟩
    cases dir <;> cases h
    · exact .outRd ha
    · exact .outWr ha hd
  · split at h <;> cases h
    exact .reg dir _ rfl

/-- A bus transaction of known fields decodes to a BUS_FAULT or to the operation of its region. -/
theorem busTxn_of_decodeFields {dir : Dir} {n : Width} {a : Offset} {v : Word} {i : Instr}
    (h : decodeFields dir n a v = .ok i) : BusTxn v i := by
  unfold decodeFields at h
  split at h
  · next hd =>
    split at h
    · next hc => cases h; exact .fault hc hd
    · next hc => exact busTxn_of_selectTxn hc hd h
  · cases h

/-- Everything a bus transaction decodes to. -/
theorem busTxn_of_decode {key v : Word} {i : Instr} (h : decode ⟨.busTxn, key, v⟩ = .ok i) : BusTxn v i := by
  unfold decode at h
  split at h
  · simp only [decodeFormat, decodeTxn] at h
    split at h
    · exact busTxn_of_decodeFields h
    · cases h
  · cases h

/-- A bus transaction is a well-formed operation. -/
theorem BusTxn.wellFormed {v : Word} {i : Instr} (h : BusTxn v i) : WellFormed i = true := by
  cases h with
  | inRd ha | outRd ha => exact ha
  | inWr ha hv | outWr ha hv => exact Bool.and_eq_true_iff.mpr ⟨ha, hv⟩
  | reg dir r hi => subst hi; cases dir <;> cases r <;> rfl
  | fault hc hd => exact Bool.and_eq_true_iff.mpr ⟨Option.isSome_of_eq_some hc, hd⟩

/-- The data of an OUT_WR is the data of its bus transaction. -/
theorem BusTxn.outWr_data {v w : Word} {n : Width} {a : Offset} (h : BusTxn v (.outWr n a w)) : w = v := by
  cases h with
  | outWr => rfl
  | reg dir r hi => cases dir <;> cases r <;> cases hi

end Sys2Proof
end

section
/-! PROOFS. Reads of the HOST: a read right after a write (20_memory.md R39, R45), and repeated reads (20_memory.md R42). -/

namespace Sys2Proof.Machine

/-- A read of n bytes that are the bytes of an n-byte value returns the value. -/
theorem memRead_eq_of_bytes {loc : Nat → Byte} {a : Nat} {n : Width} {v : Word} (hv : fitsWidth n v = true)
    (h : ∀ k, k < nBytes n → loc (a + k) = byteOf v k) : memRead loc a (nBytes n) = v :=
  eq_of_bytes_eq (memRead_lt loc a n) (of_decide_eq_true hv) fun k hk => (byteOf_memRead loc a n hk).trans (h k hk)

/-- IN_WR of a passing access while BUSY = 0. -/
theorem execInWr_idle {n : Width} {a : Offset} {v : Word} {s : State} (h : passesIn .inRam n a = true)
    (hb : s.busy = false) :
    execInWr n a v s = .next (respond .writeOk (setInRam (memWrite s.inRam a.toNat (nBytes n) v) s)) := by
  rw [execInWr_of_passes h, hb]
  rfl

/-- OUT_WR of a passing access while BUSY = 0. -/
theorem execOutWr_idle {n : Width} {a : Offset} {v : Word} {s : State} (h : passesIn .outRam n a = true)
    (hb : s.busy = false) : execOutWr n a v s =
      .next (respond .writeOk (setOutRam (memWrite s.outRam (a.toNat - Config.outBase) (nBytes n) v) s)) := by
  rw [execOutWr_of_passes h, hb]
  rfl

/-- OUT_RD of a passing access while BUSY = 0. -/
theorem execOutRd_idle {n : Width} {a : Offset} {s : State} (h : passesIn .outRam n a = true) (hb : s.busy = false) :
    execOutRd n a s = .next (respond (.readOk (memRead (hostOutByte s) a.toNat (nBytes n))) s) := by
  rw [execOutRd_of_passes h, hb]
  rfl

/-- A HOST read of IN_RAM finds the bytes just written. -/
theorem memRead_inRam_memWrite {m : Memory} {n : Width} {v : Word} {s : State} (a : Nat) (hv : fitsWidth n v = true)
    (hs : s.inRam = memWrite m a (nBytes n) v) : memRead (hostInByte s) a (nBytes n) = v :=
  memRead_eq_of_bytes hv fun k hk => by simp [hostInByte, hs, readByte_memWrite_inside _ _ _ _ hk]

/-- A HOST read of OUT_RAM finds the bytes just written. -/
theorem memRead_outRam_memWrite {m : Memory} {n : Width} {v : Word} {s : State} {a : Nat} (ha : Config.outBase ≤ a)
    (hv : fitsWidth n v = true) (hs : s.outRam = memWrite m (a - Config.outBase) (nBytes n) v) :
    memRead (hostOutByte s) a (nBytes n) = v := by
  refine memRead_eq_of_bytes hv fun k hk => ?_
  rw [hostOutByte, hs, Nat.sub_add_comm ha, readByte_memWrite_inside _ _ _ _ hk]
  rfl

/-- Settles O16: the read returns the bytes that the write stored. -/
theorem readAfterWriteReturnsTheValue : Obligations.ReadAfterWriteReturnsTheValue := by
  intro n a v s hb
  refine ⟨fun hw => ?_, fun hw => ?_⟩
  · obtain ⟨hp, hv⟩ := Bool.and_eq_true_iff.mp hw
    refine ⟨_, execInWr_idle hp hb, (execInRd_of_passes hp).trans ?_⟩
    rw [memRead_inRam_memWrite a.toNat hv rfl]
    rfl
  · obtain ⟨hp, hv⟩ := Bool.and_eq_true_iff.mp hw
    obtain ⟨hlo, -⟩ := passesIn_bounds hp
    refine ⟨_, execOutWr_idle hp hb, (execOutRd_idle hp ?_).trans ?_⟩
    · exact hb
    · rw [memRead_outRam_memWrite hlo hv rfl]
      rfl

end Sys2Proof.Machine

namespace Sys2Proof.Safety

open Sys2Proof.Machine

/-- The response of a bus read that passes its checks, of OUT_RAM while BUSY = 0; `exec_read` ties it to the model. -/
def readResponse : Instr → State → BusResponse
  | .inRd n a, s => .readOk (memRead (hostInByte s) a.toNat (nBytes n))
  | .outRd n a, s => .readOk (memRead (hostOutByte s) a.toNat (nBytes n))
  | .ctrlRd, s => .readOk (regValue .ctrl s)
  | .statusRd, s => .readOk (regValue .status s)
  | .inLenRd, s => .readOk (regValue .inLen s)
  | .errRequiredRd, s => .readOk (regValue .errRequired s)
  | .errActualRd, s => .readOk (regValue .errActual s)
  | _, _ => .none

/-- What a read answers does not depend on the inputs to come. -/
theorem readResponse_setInputs (i : Instr) (es : List Input) (s : State) :
    readResponse i (setInputs es s) = readResponse i s := by
  cases i <;> rfl

/-- What a read answers does not depend on the response before it. -/
theorem readResponse_respond (i : Instr) (r : BusResponse) (s : State) :
    readResponse i (respond r s) = readResponse i s := by
  cases i <;> rfl

/-- A well-formed bus read (of OUT_RAM only while BUSY = 0) changes the response alone. -/
theorem exec_read {i : Instr} {s : State} (hr : isRead i = true) (hw : WellFormed i = true)
    (hb : s.busy = true → ∀ n a, i ≠ .outRd n a) : exec i s = .next (respond (readResponse i s) s) := by
  cases i with
  | inRd n a => exact execInRd_of_passes hw
  | outRd n a => exact execOutRd_idle hw (Bool.eq_false_iff.mpr fun h => hb h n a rfl)
  | ctrlRd | statusRd | inLenRd | errRequiredRd | errActualRd => rfl
  | _ => cases hr

/-- A bus read leaves the key of the free values. -/
theorem keepsDraws_of_isRead {i : Instr} (h : isRead i = true) : keepsDraws i = true := by
  cases i with
  | inRd | outRd | ctrlRd | statusRd | inLenRd | errRequiredRd | errActualRd => rfl
  | _ => cases h

/-- The step of a bus read. -/
theorem step_read {s : State} {key : Word} {i : Instr} {es : List Input} (hd : decode ⟨.busTxn, key, 0#32⟩ = .ok i)
    (hr : isRead i = true) (hb : s.busy = true → ∀ n a, i ≠ .outRd n a) (hs : s.inputs = .bus key 0#32 :: es) :
    step s = .next (respond (readResponse i s) (setInputs es s)) := by
  rw [step_bus hs hd, prepared, if_pos (keepsDraws_of_isRead hr),
    exec_read (s := setInputs es s) hr (busTxn_of_decode hd).wellFormed hb, readResponse_setInputs]

/-- Settles O17: both reads answer the response of the first state, which a read does not change. -/
theorem repeatedReadsAgree : Obligations.RepeatedReadsAgree := by
  intro s key i es hd hr hb hs
  have hsecond := step_read (s := respond (readResponse i s) (setInputs (.bus key 0#32 :: es) s)) hd hr hb rfl
  rw [readResponse_respond, readResponse_setInputs] at hsecond
  exact ⟨readResponse i s, step_read hd hr hb hs, hsecond⟩

end Sys2Proof.Safety
end

section
/-! PROOFS. OUT_RAM after a completed decode (20_memory.md R46). -/

namespace Sys2Proof.Safety

open Sys2Proof.Machine

/-- Settles O43: of the three writers of OUT_RAM a HOST access is OUT_WR alone, no unit is to come, and the ENGINE of a block with
DONE = 1 is idle. -/
theorem outputIsStableWhenDone : Obligations.OutputIsStableWhenDone := by
  intro s t hinv honly hdone h
  have hb : s.busy = false := Bool.eq_false_iff.mpr fun hb => hinv.status.busyDone ⟨hb, hdone⟩
  obtain ⟨es, hs, -⟩ | ⟨i, es, hi, h⟩ := step_cases h
  · exact .inr (.inl ⟨es, hs⟩)
  rw [prepared_eq_update] at h
  obtain ⟨-, hwriter, -⟩ := eachStateHasItsOwnWriters i _ t h
  by_cases heq : t.outRam = s.outRam
  · exact .inl heq
  replace hwriter := hwriter heq
  cases hi with
  | bus key v _ _ hs hd =>
    obtain ⟨-, n, a, w, rfl⟩ | rfl | ⟨y, x, r, g, b, rfl⟩ := hwriter
    · obtain rfl := (busTxn_of_decode hd).outWr_data
      exact .inr (.inr ⟨key, _, es, n, a, hs, hd⟩)
    · cases format_of_decode hd
    · cases format_of_decode hd
  | unit op _ _ hs _ => exact absurd rfl (honly (.unit op) (by simp [hs]) op)
  | engine _ _ _ hi =>
    rw [engineTurn_of_not_busy hb] at hi
    subst hi
    simp [engineInstr] at hwriter

end Sys2Proof.Safety
end

section
/-! PROOFS. A HOST access in a system of several blocks (20_memory.md R33, 60_exceptions.md R125). -/

namespace Sys2Proof.Machine

/-- The windows of two blocks share no address. -/
def windowsDisjoint (p q : Placed) : Prop := ∀ addr, inWindow p addr = true → inWindow q addr = false

/-- In a well-formed system any two windows share no address. -/
theorem systemWf_pairwise {ps : List Placed} (h : systemWf ps = true) : ps.Pairwise windowsDisjoint := by
  induction ps with
  | nil => exact .nil
  | cons p ps ih =>
    cases ps with
    | nil => exact List.pairwise_singleton _ p
    | cons q ps =>
      simp only [systemWf, Bool.and_eq_true, List.all_eq_true, Bool.or_eq_true, decide_eq_true_eq] at h
      obtain ⟨hp, hps⟩ := h
      refine .cons (fun r hr addr hin => ?_) (ih hps)
      have hd := hp r hr
      simp only [inWindow, Bool.and_eq_true, Bool.and_eq_false_iff, decide_eq_true_eq, decide_eq_false_iff_not] at hin ⊢
      omega

/-- A HOST access replaces the block whose window holds its address by that block with the access as its next input. -/
theorem systemAccess_eq_set {ps : List Placed} {k : Nat} {p : Placed} {dir : Dir} {n : Width} {addr : Nat} {v : Word}
    (hps : ps.Pairwise windowsDisjoint) (hp : ps[k]? = some p) (hin : inWindow p addr = true) :
    systemAccess dir n addr v ps = ps.set k { p with
      block := setInputs (.bus (txnKey dir n (BitVec.ofNat 20 (addr - p.blockBase))) v :: p.block.inputs) p.block } := by
  induction ps generalizing k with
  | nil => cases hp
  | cons q ps ih =>
    obtain ⟨hq, hps⟩ := List.pairwise_cons.mp hps
    cases k with
    | zero => cases hp; exact if_pos hin
    | succ k =>
      have hout : ¬ inWindow q addr = true := fun h =>
        Bool.eq_false_iff.mp (hq p (List.mem_of_getElem? hp) addr h) hin
      rw [systemAccess, if_neg hout, ih hps hp]
      rfl

/-- Settles O53: the list after the access is the list before it with block k alone replaced. -/
theorem systemAccessReachesOneInstance : Obligations.SystemAccessReachesOneInstance := by
  intro ps k p dir n addr v hwf hp hin
  rw [systemAccess_eq_set (systemWf_pairwise hwf) hp hin]
  obtain ⟨hk, -⟩ := List.getElem?_eq_some_iff.mp hp
  exact ⟨List.getElem?_set_self hk, fun _ hj => List.getElem?_set_ne hj.symm⟩

end Sys2Proof.Machine
end

section
/-! PROOFS. The rows of the opcode table that an access which passes its checks can have (30_encoding.md R58, R61): which keys
meet a row, which operation the decoder answers there, and its encoding. -/

namespace Sys2Proof

open Sys2Proof.Machine

/-- A BUS_TXN row with a mask; `busRow_cases` ties these to the table. -/
inductive AccessRow where
  /-- IN_RD and IN_WR. -/
  | inRam (dir : Dir)
  /-- OUT_RD and OUT_WR. -/
  | outRam (dir : Dir)
  /-- The read and the write of a register. -/
  | reg (dir : Dir) (r : Reg)

namespace AccessRow

def mask : AccessRow → Word
  | .inRam _ => 0x4F8000#32
  | .outRam _ => 0x4C0000#32
  | .reg _ _ => 0x7FFFFF#32

def pattern : AccessRow → Word
  | .inRam .rd => 0x000000#32
  | .inRam .wr => 0x400000#32
  | .outRam .rd => 0x040000#32
  | .outRam .wr => 0x440000#32
  | .reg dir r => txnKey dir .four (regOffset r)

/-- The operation of the row for the fields of an access and its data. -/
def instr (n : Width) (a : Offset) (v : Word) : AccessRow → Instr
  | .inRam .rd => .inRd n a
  | .inRam .wr => .inWr n a v
  | .outRam .rd => .outRd n a
  | .outRam .wr => .outWr n a v
  | .reg dir r => selectReg dir r v

/-- The accesses whose key meets the row, in terms of the key's fields; `rowMatches_iff_covers` ties it to mask and match. -/
def Covers (dir : Dir) (n : Width) (a : Offset) : AccessRow → Prop
  | .inRam d => d = dir ∧ a.toNat < 0x8000
  | .outRam d => d = dir ∧ 0x40000 ≤ a.toNat ∧ a.toNat < 0x80000
  | .reg d r => d = dir ∧ n = .four ∧ a = regOffset r

theorem busRow_instr (row : AccessRow) (n : Width) (a : Offset) (v : Word) :
    busRow (row.instr n a v) = some (row.mask, row.pattern) := by
  cases row with
  | inRam dir | outRam dir => cases dir <;> rfl
  | reg dir r => cases dir <;> cases r <;> rfl

theorem mask_ne_zero (row : AccessRow) : row.mask ≠ 0#32 := by
  cases row with
  | inRam | outRam | reg => simp [mask]

/-- Every row of the table with a mask is one of these. -/
theorem busRow_cases {i : Instr} {m p : Word} (h : busRow i = some (m, p)) (hm : m ≠ 0#32) :
    ∃ row : AccessRow, row.mask = m ∧ row.pattern = p := by
  cases i with
  | inRd => cases h; exact ⟨.inRam .rd, rfl, rfl⟩
  | inWr => cases h; exact ⟨.inRam .wr, rfl, rfl⟩
  | outRd => cases h; exact ⟨.outRam .rd, rfl, rfl⟩
  | outWr => cases h; exact ⟨.outRam .wr, rfl, rfl⟩
  | ctrlRd => cases h; exact ⟨.reg .rd .ctrl, rfl, rfl⟩
  | ctrlWr => cases h; exact ⟨.reg .wr .ctrl, rfl, rfl⟩
  | statusRd => cases h; exact ⟨.reg .rd .status, rfl, rfl⟩
  | statusWr => cases h; exact ⟨.reg .wr .status, rfl, rfl⟩
  | inLenRd => cases h; exact ⟨.reg .rd .inLen, rfl, rfl⟩
  | inLenWr => cases h; exact ⟨.reg .wr .inLen, rfl, rfl⟩
  | errRequiredRd => cases h; exact ⟨.reg .rd .errRequired, rfl, rfl⟩
  | errRequiredWr => cases h; exact ⟨.reg .wr .errRequired, rfl, rfl⟩
  | errActualRd => cases h; exact ⟨.reg .rd .errActual, rfl, rfl⟩
  | errActualWr => cases h; exact ⟨.reg .wr .errActual, rfl, rfl⟩
  | busFault => cases h; exact absurd rfl hm
  | _ => cases h

theorem txnKey_inj {dir dir' : Dir} {n n' : Width} {a a' : Offset} (h : txnKey dir n a = txnKey dir' n' a') :
    dir = dir' ∧ n = n' ∧ a = a' := by
  refine ⟨?_, ?_, ?_⟩
  · rw [← keyDir_txnKey dir n a, h, keyDir_txnKey]
  · rw [← Option.some_inj, ← keyWidth_txnKey dir n a, h, keyWidth_txnKey]
  · rw [← keyOffset_txnKey dir n a, h, keyOffset_txnKey]

theorem dirCode_inj {d d' : Dir} : dirCode d = dirCode d' ↔ d = d' := by
  cases d <;> cases d' <;> decide

/-- Bit 22 of a key is its DIR. -/
theorem txnKey_dirBit (dir : Dir) (n : Width) (a : Offset) : (txnKey dir n a).toNat / 0x400000 % 2 = dirCode dir := by
  have hn : widthCode n ≤ 2 := by cases n <;> decide
  have hd : dirCode dir ≤ 1 := by cases dir <;> decide
  rw [txnKey_toNat]
  omega

/-- The low 20 bits of a key are its offset. -/
theorem txnKey_offset (dir : Dir) (n : Width) (a : Offset) : (txnKey dir n a).toNat % 0x100000 = a.toNat := by
  rw [← keyOffset_toNat, keyOffset_txnKey]

theorem pattern_inRam_toNat (d : Dir) : (inRam d).pattern.toNat = dirCode d * 0x400000 := by
  cases d <;> rfl

theorem pattern_outRam_toNat (d : Dir) : (outRam d).pattern.toNat = dirCode d * 0x400000 + 0x40000 := by
  cases d <;> rfl

/-- A key meets a row exactly when its DIR is the row's and its offset is in the row's range; a register row fixes the width
too. -/
theorem rowMatches_iff_covers (row : AccessRow) (dir : Dir) (n : Width) (a : Offset) :
    rowMatches row.mask row.pattern (txnKey dir n a) = true ↔ row.Covers dir n a := by
  have hdir := txnKey_dirBit dir n a
  have hoff := txnKey_offset dir n a
  cases row with
  | inRam d =>
    rw [mask, rowMatches_in, pattern_inRam_toNat, Covers, ← dirCode_inj]
    omega
  | outRam d =>
    rw [mask, rowMatches_out, pattern_outRam_toNat, Covers, ← dirCode_inj]
    omega
  | reg d r =>
    have hfits : (txnKey dir n a).toNat < 0x800000 := txnKey_fits dir n a
    rw [mask, rowMatches_reg, Nat.mod_eq_of_lt hfits, BitVec.toNat_inj, pattern, Covers]
    constructor
    · intro h
      obtain ⟨hd, hn, ho⟩ := txnKey_inj h
      exact ⟨hd.symm, hn, ho⟩
    · rintro ⟨rfl, rfl, rfl⟩
      rfl

theorem regOffset_injective : Function.Injective regOffset := by
  intro r r' h
  have hr := regAt_regOffset r
  rw [h, regAt_regOffset] at hr
  exact (Option.some_inj.mp hr).symm

theorem regOffset_range (r : Reg) : 0x8000 ≤ (regOffset r).toNat ∧ (regOffset r).toNat < 0x8014 := by
  cases r <;> decide

/-- No access is covered by two rows. -/
theorem Covers.unique {row row' : AccessRow} {dir : Dir} {n : Width} {a : Offset} (h : row.Covers dir n a)
    (h' : row'.Covers dir n a) : row = row' := by
  cases row with
  | inRam d =>
    obtain ⟨rfl, ha⟩ := h
    cases row' with
    | inRam d' => rw [h'.1]
    | outRam d' => obtain ⟨-, hlo, -⟩ := h'; omega
    | reg d' r =>
      obtain ⟨-, -, rfl⟩ := h'
      have := regOffset_range r
      omega
  | outRam d =>
    obtain ⟨rfl, hlo, -⟩ := h
    cases row' with
    | inRam d' => obtain ⟨-, ha⟩ := h'; omega
    | outRam d' => rw [h'.1]
    | reg d' r =>
      obtain ⟨-, -, rfl⟩ := h'
      have := regOffset_range r
      omega
  | reg d r =>
    obtain ⟨rfl, rfl, rfl⟩ := h
    have := regOffset_range r
    cases row' with
    | inRam d' => obtain ⟨-, ha⟩ := h'; omega
    | outRam d' => obtain ⟨-, hlo, -⟩ := h'; omega
    | reg d' r' =>
      obtain ⟨rfl, -, hr⟩ := h'
      rw [regOffset_injective hr]

/-- An access that passes its checks in IN_RAM is covered by the input row of its direction. -/
theorem covers_inRam (dir : Dir) {n : Width} {a : Offset} (h : passesIn .inRam n a = true) :
    (inRam dir).Covers dir n a := by
  have hn := nBytes_pos n
  have hb := passesIn_bounds h
  simp only [regionBase, regionSize, Config.inSize] at hb
  exact ⟨rfl, by omega⟩

/-- An access that passes its checks in OUT_RAM is covered by the output row of its direction. -/
theorem covers_outRam (dir : Dir) {n : Width} {a : Offset} (h : passesIn .outRam n a = true) :
    (outRam dir).Covers dir n a := by
  have hn := nBytes_pos n
  have hb := passesIn_bounds h
  simp only [regionBase, regionSize, Config.outBase, Config.outSize] at hb
  exact ⟨rfl, by omega⟩

/-- The aligned 4-byte offsets of the register window are the registers'. -/
theorem eq_regOffset_of_aligned {a : Offset} (hlo : 0x8000 ≤ a.toNat) (hhi : a.toNat + 4 ≤ 0x8014) (hal : a.toNat % 4 = 0) :
    ∃ r, a = regOffset r := by
  have h : a.toNat = 0x8000 ∨ a.toNat = 0x8004 ∨ a.toNat = 0x8008 ∨ a.toNat = 0x800C ∨ a.toNat = 0x8010 := by omega
  obtain h | h | h | h | h := h
  · exact ⟨.ctrl, BitVec.eq_of_toNat_eq h⟩
  · exact ⟨.status, BitVec.eq_of_toNat_eq h⟩
  · exact ⟨.inLen, BitVec.eq_of_toNat_eq h⟩
  · exact ⟨.errRequired, BitVec.eq_of_toNat_eq h⟩
  · exact ⟨.errActual, BitVec.eq_of_toNat_eq h⟩

/-- An access that passes its checks is covered by a row, whose operation the decoder answers. -/
theorem exists_covers {dir : Dir} {n : Width} {a : Offset} {v : Word} (hc : busCheck n a = none)
    (hd : dataOk dir n v = true) :
    ∃ row : AccessRow, row.Covers dir n a ∧ decode (encodeTxn dir n a v) = .ok (row.instr n a v) := by
  obtain ⟨r, hin, hw, hal⟩ := busCheck_eq_none.mp hc
  have hr := regionOf_eq_some.mpr hin
  have hdec : decode (encodeTxn dir n a v) = selectTxn dir n a v :=
    (decode_txnKey dir n a v).trans (decodeFields_passes hd hc)
  cases r with
  | inRam =>
    refine ⟨.inRam dir, covers_inRam dir (passesIn_iff.mpr ⟨hc, hr⟩), hdec.trans ?_⟩
    simp only [selectTxn, hr]
    cases dir <;> rfl
  | outRam =>
    refine ⟨.outRam dir, covers_outRam dir (passesIn_iff.mpr ⟨hc, hr⟩), hdec.trans ?_⟩
    simp only [selectTxn, hr]
    cases dir <;> rfl
  | regs =>
    obtain rfl := acceptsWidth_iff.mp hw rfl
    obtain ⟨hlo, hhi⟩ := insideRegion_iff.mp hin
    obtain ⟨r, rfl⟩ := eq_regOffset_of_aligned hlo hhi hal
    exact ⟨.reg dir r, ⟨rfl, rfl, rfl⟩, decode_reg dir r v hd⟩

/-- An access that passes its checks decodes to the operation of the row that covers it. -/
theorem Covers.decode {row : AccessRow} {dir : Dir} {n : Width} {a : Offset} {v : Word} (h : row.Covers dir n a)
    (hc : busCheck n a = none) (hd : dataOk dir n v = true) :
    decode (encodeTxn dir n a v) = .ok (row.instr n a v) := by
  obtain ⟨row', h', hdec⟩ := exists_covers hc hd
  rwa [h.unique h']

/-- The operation of a row encodes to the access it was read from: a read has no data to lose. -/
theorem Covers.encode {row : AccessRow} {dir : Dir} {n : Width} {a : Offset} {v : Word} (h : row.Covers dir n a)
    (hd : dataOk dir n v = true) : encode (row.instr n a v) = encodeTxn dir n a v := by
  have hrd : dir = .rd → v = 0#32 := by
    rintro rfl
    exact of_decide_eq_true hd
  cases row with
  | inRam d | outRam d =>
    obtain ⟨rfl, -⟩ := h
    cases d with
    | rd => rw [hrd rfl]; rfl
    | wr => rfl
  | reg d r =>
    obtain ⟨rfl, rfl, rfl⟩ := h
    cases d with
    | rd => rw [hrd rfl]; cases r <;> rfl
    | wr => cases r <;> rfl

end AccessRow

end Sys2Proof
end

section
/-! PROOFS. The decoder and the encoder of 30_encoding.md R53 to R60. -/

namespace Sys2Proof

open Sys2Proof.Machine

/-- Settles O4: a failing access is BUS_FAULT, and a passing one is the operation of the only row that covers it. -/
theorem busKeySelectsItsOnlyTableRow : Obligations.BusKeySelectsItsOnlyTableRow := by
  intro dir n a v hd
  refine ⟨fun hc => ?_, fun hc => ?_⟩
  · obtain ⟨c, hc⟩ := Option.ne_none_iff_exists'.mp hc
    exact (decode_txnKey dir n a v).trans (decodeFields_fails hd hc)
  · obtain ⟨row, hrow, hdec⟩ := AccessRow.exists_covers hc hd
    refine ⟨row.instr n a v, row.mask, row.pattern, hdec, row.busRow_instr n a v, row.mask_ne_zero,
      (row.rowMatches_iff_covers dir n a).mpr hrow, fun j m p hj hm hmatch => ?_⟩
    obtain ⟨row', rfl, rfl⟩ := AccessRow.busRow_cases hj hm
    rw [hrow.unique ((row'.rowMatches_iff_covers dir n a).mp hmatch)]
    exact ⟨rfl, rfl⟩

/-- A 23-bit key whose WCODE is a width is the key of its fields. -/
theorem txnKey_of_fields {key : Word} {n : Width} (hfits : key.toNat < 0x800000)
    (hn : widthOfCode (keyWidthCode key) = some n) :
    txnKey (keyDir key) n (keyOffset key) = key := by
  have hcode : widthCode n = keyWidthCode key := by
    unfold widthOfCode at hn
    split at hn <;> cases hn <;> simp [widthCode, *]
  have hdir : dirCode (keyDir key) = key.toNat / 0x400000 := by
    rw [keyDir_eq]
    split <;> simp only [dirCode] <;> omega
  apply BitVec.eq_of_toNat_eq
  rw [txnKey_toNat, hcode, hdir, keyWidthCode_eq, keyOffset_toNat]
  omega

/-- A bus transaction that the decoder accepts is the key of some fields, with data in order. -/
theorem fields_of_decode {key v : Word} {i : Instr} (h : decode ⟨.busTxn, key, v⟩ = .ok i) :
    ∃ dir n a, key = txnKey dir n a ∧ dataOk dir n v = true := by
  unfold decode at h
  split at h
  · next hfits =>
    simp only [decodeFormat, decodeTxn] at h
    split at h
    · next n hn =>
      refine ⟨keyDir key, n, keyOffset key, (txnKey_of_fields hfits hn).symm, ?_⟩
      unfold decodeFields at h
      split at h
      · assumption
      · cases h
    · cases h
  · cases h

/-- Settles O3: the key is that of its fields, and the operation of a row, or BUS_FAULT, holds all of them. -/
theorem decodedBusTransactionEncodesBack : Obligations.DecodedBusTransactionEncodesBack := by
  intro key v i h
  obtain ⟨dir, n, a, rfl, hd⟩ := fields_of_decode h
  cases hc : busCheck n a with
  | some c =>
    rw [decode_txnKey, decodeFields_fails hd hc] at h
    cases h
    rfl
  | none =>
    obtain ⟨row, hrow, hdec⟩ := AccessRow.exists_covers hc hd
    obtain rfl := Except.ok.inj (hdec.symm.trans h)
    exact hrow.encode hd

/-- Byte k of the word made of up to four bytes is the k-th byte. -/
theorem byteOf_ofNat_leValue {bs : List Byte} (hlen : bs.length ≤ 4) {k : Nat} (hk : k < bs.length) :
    byteOf (BitVec.ofNat 32 (leValue bs)) k = bs[k] := by
  have hlt : leValue bs < 2 ^ 32 := (leValue_lt bs).trans_le ((Nat.pow_le_pow_right (by decide) hlen).trans (by decide))
  apply BitVec.eq_of_toNat_eq
  rw [byteOf_toNat, BitVec.toNat_ofNat, Nat.mod_eq_of_lt hlt, leValue_byte bs hk]

/-- The low byte of a word that holds one byte. -/
theorem byteOf_setWidth_zero (b : Byte) : byteOf (b.setWidth 32) 0 = b := by
  have := b.isLt
  apply BitVec.eq_of_toNat_eq
  rw [byteOf_toNat, BitVec.toNat_setWidth]
  omega

theorem byteOf_colourWord_zero (lo hi : Byte) : byteOf ((colourWord lo hi).setWidth 32) 0 = lo := by
  have := lo.isLt
  have := hi.isLt
  apply BitVec.eq_of_toNat_eq
  rw [byteOf_toNat, BitVec.toNat_setWidth, colourWord_toNat]
  omega

theorem byteOf_colourWord_one (lo hi : Byte) : byteOf ((colourWord lo hi).setWidth 32) 1 = hi := by
  have := lo.isLt
  have := hi.isLt
  apply BitVec.eq_of_toNat_eq
  rw [byteOf_toNat, BitVec.toNat_setWidth, colourWord_toNat]
  omega

theorem hiNibble_append (p c : Nibble) : hiNibble (p ++ c) = p := by
  rw [hiNibble, BitVec.extractLsb'_append_eq_left]

theorem loNibble_append (p c : Nibble) : loNibble (p ++ c) = c := by
  rw [loNibble, BitVec.extractLsb'_append_eq_right]

theorem expand_eq_append (v : Nibble) : expand v = v ++ v := by
  revert v
  decide

theorem extractLsb'_setWidth (v : Nibble) : (v.setWidth 32).extractLsb' 0 4 = v := by
  have := v.isLt
  apply BitVec.eq_of_toNat_eq
  rw [BitVec.extractLsb'_toNat, BitVec.toNat_setWidth, Nat.shiftRight_zero]
  omega

/-- The packed bytes of a pixel decode to the pixel's entry and position. -/
theorem decodePixel_pixelBytes {y : BitVec 8} {x : BitVec 9} {r4 g4 b4 : Nibble} (hy : y.toNat < 200) (hx : x.toNat < 320) :
    decodePixel (BitVec.ofNat 32 (leValue (pixelBytes r4 g4 b4))) (BitVec.ofNat 32 (outAddr y.toNat x.toNat)) =
      .ok (.rgbaPack y x r4 g4 b4) := by
  have hbyte : ∀ k, (hk : k < 4) → byteOf (BitVec.ofNat 32 (leValue (pixelBytes r4 g4 b4))) k = (pixelBytes r4 g4 b4)[k] :=
    fun k hk => byteOf_ofNat_leValue (bs := pixelBytes r4 g4 b4) (Nat.le_refl 4) hk
  generalize BitVec.ofNat 32 (leValue (pixelBytes r4 g4 b4)) = w at hbyte ⊢
  have haddr : (BitVec.ofNat 32 (outAddr y.toNat x.toNat)).toNat = 4 * (320 * y.toNat + x.toNat) := by
    simp only [outAddr, Config.bytesPerPixel, Config.width, BitVec.toNat_ofNat]
    omega
  have hrow : (320 * y.toNat + x.toNat) / 320 = y.toNat := by omega
  have hcol : x.toNat % 320 = x.toNat := by omega
  have hsize : 4 * (320 * y.toNat + x.toNat) % 4 = 0 ∧ 4 * (320 * y.toNat + x.toNat) < 256000 := by omega
  simp [decodePixel, hbyte, haddr, hrow, hcol, hsize, pixelBytes, replicated, expand_eq_append,
    hiNibble_append, loNibble_append]

open Sys2Proof.Laws in
/-- Settles O1, by the format of the operation: each field is read back from the bits it was written to. -/
theorem decodeInvertsEncode : Obligations.DecodeInvertsEncode := by
  intro i hw
  cases i with
  | seqIdle | seqPalLoad | seqRowStart | seqPixelPair | decodeCmd | ctrlNop => rfl
  | inRd n a => exact (AccessRow.covers_inRam .rd hw).decode (passesIn_iff.mp hw).1 rfl
  | outRd n a => exact (AccessRow.covers_outRam .rd hw).decode (passesIn_iff.mp hw).1 rfl
  | inWr n a v =>
    obtain ⟨hp, hv⟩ := Bool.and_eq_true_iff.mp hw
    exact (AccessRow.covers_inRam .wr hp).decode (passesIn_iff.mp hp).1 hv
  | outWr n a v =>
    obtain ⟨hp, hv⟩ := Bool.and_eq_true_iff.mp hw
    exact (AccessRow.covers_outRam .wr hp).decode (passesIn_iff.mp hp).1 hv
  | ctrlRd => exact decode_reg .rd .ctrl 0#32 rfl
  | statusRd => exact decode_reg .rd .status 0#32 rfl
  | inLenRd => exact decode_reg .rd .inLen 0#32 rfl
  | errRequiredRd => exact decode_reg .rd .errRequired 0#32 rfl
  | errActualRd => exact decode_reg .rd .errActual 0#32 rfl
  | ctrlWr d => exact decode_reg .wr .ctrl d (dataOk_wr_four d)
  | statusWr d => exact decode_reg .wr .status d (dataOk_wr_four d)
  | inLenWr d => exact decode_reg .wr .inLen d (dataOk_wr_four d)
  | errRequiredWr d => exact decode_reg .wr .errRequired d (dataOk_wr_four d)
  | errActualWr d => exact decode_reg .wr .errActual d (dataOk_wr_four d)
  | busFault dir n a v =>
    obtain ⟨hc, hd⟩ := Bool.and_eq_true_iff.mp hw
    obtain ⟨c, hc⟩ := Option.isSome_iff_exists.mp hc
    exact (decode_txnKey dir n a v).trans (decodeFields_fails hd hc)
  | paletteWordParse lo hi =>
    refine (decode_of_fits (EncodingMatchesItsRow.paletteWordParse lo hi hw).1).trans ?_
    change Except.ok (Instr.paletteWordParse (byteOf ((colourWord lo hi).setWidth 32) 0)
      (byteOf ((colourWord lo hi).setWidth 32) 1)) = _
    rw [byteOf_colourWord_zero, byteOf_colourWord_one]
  | scbSelect scb =>
    refine (decode_of_fits (EncodingMatchesItsRow.scbSelect scb hw).1).trans ?_
    change Except.ok (Instr.scbSelect (byteOf (scb.setWidth 32) 0)) = _
    rw [byteOf_setWidth_zero]
  | pixelSplit b =>
    refine (decode_of_fits (EncodingMatchesItsRow.pixelSplit b hw).1).trans ?_
    change Except.ok (Instr.pixelSplit (byteOf (b.setWidth 32) 0)) = _
    rw [byteOf_setWidth_zero]
  | paletteLookup psel idx =>
    refine (decode_of_fits (EncodingMatchesItsRow.paletteLookup psel idx hw).1).trans ?_
    change Except.ok (Instr.paletteLookup (hiNibble (byteOf ((psel ++ idx).setWidth 32) 0))
      (loNibble (byteOf ((psel ++ idx).setWidth 32) 0))) = _
    rw [byteOf_setWidth_zero, hiNibble_append, loNibble_append]
  | channelExpand v =>
    refine (decode_of_fits (EncodingMatchesItsRow.channelExpand v hw).1).trans ?_
    change Except.ok (Instr.channelExpand ((v.setWidth 32).extractLsb' 0 4)) = _
    rw [extractLsb'_setWidth]
  | rgbaPack y x r4 g4 b4 =>
    obtain ⟨hy, hx⟩ := Bool.and_eq_true_iff.mp hw
    exact (decode_of_fits (EncodingMatchesItsRow.rgbaPack y x r4 g4 b4 hw).1).trans
      (decodePixel_pixelBytes (of_decide_eq_true hy) (of_decide_eq_true hx))

/-- The decoded position of a pixel word is inside the bitmap. -/
theorem wellFormed_of_decodePixel {w o : Word} {i : Instr} (h : decodePixel w o = .ok i) : WellFormed i = true := by
  unfold decodePixel at h
  split at h
  · cases h
  split at h
  · cases h
  split at h
  · cases h
  next haddr =>
    cases h
    simp only [Config.outSize, not_not] at haddr
    simp only [WellFormed, Config.rows, Config.width, BitVec.toNat_ofNat, Bool.and_eq_true, decide_eq_true_eq]
    omega

theorem wellFormed_decodePhase (w : BitVec 2) : WellFormed (decodePhase w) = true := by
  revert w
  decide

theorem wellFormed_decodeCtrl (d : Word) : WellFormed (decodeCtrl d) = true := by
  unfold decodeCtrl
  split <;> rfl

/-- Settles O2, by format: only a bus transaction and a pixel word have operands that no encoding may hold. -/
theorem decodedOperationIsWellFormed : Obligations.DecodedOperationIsWellFormed := by
  rintro ⟨f, w, v⟩ i h
  by_cases hf : f = .busTxn
  · subst hf
    exact (busTxn_of_decode h).wellFormed
  unfold decode at h
  split at h
  · cases f with
    | busTxn => exact absurd rfl hf
    | rgbaPixel => exact wellFormed_of_decodePixel h
    | seqPhase => obtain rfl := plain_ok h; exact wellFormed_decodePhase _
    | ctrlWord => obtain rfl := plain_ok h; exact wellFormed_decodeCtrl _
    | colourWord | scbByte | pixelByte | palSelect | channel => obtain rfl := plain_ok h; rfl
  · cases h

/-- Settles O5: the nine words and the rejected key, each run through the decoder. -/
theorem wordsFromTheSpecDecode : Obligations.WordsFromTheSpecDecode :=
  ⟨rfl, rfl, rfl, rfl, rfl, rfl, rfl, rfl, rfl, rfl⟩

end Sys2Proof
end

section
/-! PROOFS. The bits that DecodeRef ignores (30_encoding.md R62, R65). -/

namespace Sys2Proof.Safety

open Sys2Proof.Machine

/-- A channel of a colour word is one of its bits 11:0. -/
theorem refChannel_congr {w w' : Nat} (h : w % 4096 = w' % 4096) {ch : Nat} (hch : ch < 3) :
    refChannel w ch = refChannel w' ch := by
  unfold refChannel
  match ch, hch with
  | 0, _ | 1, _ | 2, _ => omega

/-- A palette has 16 colours and there are 16 palettes, so the numbers DecodeRef reads off the input are nibbles. -/
theorem refPalette_lt (f : Nat → Byte) (y : Nat) : refPalette f y < 16 := Nat.mod_lt _ (by decide)

theorem refIndex_lt (f : Nat → Byte) (y x : Nat) : refIndex f y x < 16 := by
  have := (f (160 * y + x / 2)).isLt
  unfold refIndex
  split <;> omega

/-- Settles O32: a pixel's index and palette are equal, and its colour word agrees in bits 11:0. -/
theorem ignoredBitsNeverChangeTheResult : Obligations.IgnoredBitsNeverChangeTheResult := by
  intro f g hpix hscb heven hodd j hj
  have hpal : ∀ y, y < 200 → refPalette f y = refPalette g y := fun y hy => hscb (32000 + y) (by omega) (by omega)
  have hidx : ∀ y x, y < 200 → x < 320 → refIndex f y x = refIndex g y x := fun y x hy hx => by
    simp only [refIndex, hpix (160 * y + x / 2) (by omega)]
  have hword : ∀ p i, p < 16 → i < 16 → refWord f p i % 4096 = refWord g p i % 4096 := fun p i hp hi => by
    have hlo := heven (32256 + 32 * p + 2 * i) (by omega) (by omega) (by omega)
    have hhi := hodd (32256 + 32 * p + 2 * i + 1) (by omega) (by omega) (by omega)
    simp only [refWord, hlo]
    omega
  have hy : j / 4 / 320 < 200 := by omega
  have hx : j / 4 % 320 < 320 := by omega
  unfold decodeRef decodeRefPixel
  rw [hpal _ hy, hidx _ _ hy hx]
  split
  · next hch => rw [refChannel_congr (hword _ _ (refPalette_lt _ _) (refIndex_lt _ _ _)) hch]
  · rfl

end Sys2Proof.Safety
end

section
/-! PROOFS. WAIT (30_encoding.md R64): a poll, and the end of the decode it waits for. -/

namespace Sys2Proof.Safety

open Sys2Proof.Machine

/-- BUSY is bit 0 of STATUS. -/
theorem statusWord_getLsbD_zero (s : State) : (statusWord s).getLsbD 0 = s.busy := by
  rw [statusWord, BitVec.getLsbD_setWidth, BitVec.getLsbD_append]
  cases hb : s.busy <;> simp [flagBit]

/-- Settles O54: the poll is a read of STATUS. -/
theorem pollGoesOnWhileBusy : Obligations.PollGoesOnWhileBusy := by
  intro s es hs
  have hdec : decode ⟨.busTxn, txnKey .rd .four 0x08004#20, 0#32⟩ = .ok .statusRd := decode_reg .rd .status 0#32 rfl
  exact ⟨.readOk (statusWord s), step_read hdec rfl (fun _ _ _ => nofun) hs, statusWord_getLsbD_zero s⟩

/-- A bus read that passes its checks changes the response alone, and the key of the free values. -/
theorem exec_read_frame {i : Instr} {s : State} (hr : isRead i = true) (hw : WellFormed i = true) :
    ∃ r n, exec i s = .next { s with response := r, draws := n } := by
  by_cases h : s.busy = true ∧ ∃ n a, i = .outRd n a
  · obtain ⟨hb, n, a, rfl⟩ := h
    exact ⟨_, s.draws + 1, (execOutRd_of_passes hw).trans (if_pos hb)⟩
  · exact ⟨_, s.draws, exec_read hr hw fun hb n a hi => h ⟨hb, n, a, hi⟩⟩

/-- The step of a bus read, whatever BUSY is, changes the model's own fields alone. -/
theorem step_read_frame {s : State} {key : Word} {i : Instr} {es : List Input}
    (hd : decode ⟨.busTxn, key, 0#32⟩ = .ok i) (hr : isRead i = true) (hs : s.inputs = .bus key 0#32 :: es) :
    ∃ r n, step s = .next { s with inputs := es, response := r, draws := n } := by
  rw [step_bus hs hd, prepared_eq_update]
  exact exec_read_frame hr (busTxn_of_decode hd).wellFormed

/-- The ENGINE's turn leaves a decode in progress, or one that is done. -/
theorem busy_or_done_engineTurn {s t : State} (hinv : BlockInv s) (hb : s.busy = true)
    (h : exec (engineTurn s) s = .next t) : t.busy = true ∨ t.done = true := by
  obtain ⟨-, lo, hi, -, -, rfl⟩ | ⟨-, b, -, rfl⟩ | ⟨-, b, -, rfl⟩ := engineTurn_cases hinv hb h
  · obtain ⟨p, ph, he⟩ :=
      advancePidx_frame (setPal (palIndex (pidxPalette s.pidx) (pidxColour s.pidx)) (parseEntry lo hi) s)
    rw [he]
    exact .inl hb
  · exact .inl hb
  · obtain ⟨-, he⟩ | ⟨-, -, he⟩ | ⟨-, -, he⟩ := advancePosition_cases (setOutRam (packPair b s).outRam s) <;> rw [he]
    · exact .inl hb
    · exact .inl hb
    · exact .inr rfl

/-- The HOST only reads, and the decode it waits for is in progress or done. -/
structure Waiting (s : State) : Prop where
  inv : BlockInv s
  written : inputWritten s.inRam
  inputs : ∀ e ∈ s.inputs, e = .engine ∨ ∃ key i, e = .bus key 0#32 ∧ decode ⟨.busTxn, key, 0#32⟩ = .ok i ∧ isRead i = true
  ends : s.busy = true ∨ s.done = true

/-- A bound on the steps until the decode is done. -/
def waitSteps (s : State) : Nat := s.inputs.length + remainingSteps s

/-- The ENGINE's turn of a waiting block: one step of the decode, or nothing once it is done. -/
theorem waiting_engineTurn {s : State} (h : Waiting s) :
    ∃ t, exec (engineTurn s) s = .next t ∧ t.inRam = s.inRam ∧ t.inputs = s.inputs ∧ (t.busy = true ∨ t.done = true) ∧
      remainingSteps t ≤ remainingSteps s - 1 := by
  cases hb : s.busy with
  | true =>
    obtain ⟨t, ht⟩ := engineTurn_succeeds h.inv hb h.written
    obtain ⟨hin, -, hinputs⟩ := engineTurn_frame ht
    have hrem := remainingSteps_engineTurn h.inv hb ht
    exact ⟨t, ht, hin, hinputs, busy_or_done_engineTurn h.inv hb ht, by omega⟩
  | false =>
    refine ⟨s, ?_, rfl, rfl, h.ends, ?_⟩
    · rw [engineTurn_of_not_busy hb]
      rfl
    · simp [remainingSteps, hb]

/-- Taking inputs off the list leaves a waiting block waiting. -/
theorem waiting_prepared {s : State} (h : Waiting s) (i : Instr) {es : List Input} (hes : es ⊆ s.inputs) :
    Waiting (prepared i es s) := by
  have hinv := h.inv.prepared i es
  rw [prepared_eq_update] at hinv ⊢
  exact ⟨hinv, h.written, fun e he => h.inputs e (hes he), h.ends⟩

/-- A step at the ENGINE's turn of a waiting block. -/
theorem waiting_step_engine {s : State} {es : List Input} (h : Waiting s) (hes : es ⊆ s.inputs)
    (hs : step s = exec (engineTurn s) (prepared (engineTurn s) es s)) :
    ∃ t, step s = .next t ∧ Waiting t ∧ t.inputs = es ∧ remainingSteps t ≤ remainingSteps s - 1 := by
  have hp := waiting_prepared h (engineTurn s) hes
  obtain ⟨t, ht, hin, hinputs, hends, hrem⟩ := waiting_engineTurn hp
  rw [engineTurn_prepared, ← hs] at ht
  rw [prepared_eq_update] at hp hin hinputs hrem
  exact ⟨t, ht, ⟨stepKeepsTheInvariant s t h.inv ht, hin ▸ h.written, hinputs ▸ hp.inputs, hends⟩, hinputs, hrem⟩

/-- Each step of a waiting block takes it one step nearer the end of the decode, or finds it done. -/
theorem waiting_step {s : State} (h : Waiting s) :
    ∃ t, step s = .next t ∧ Waiting t ∧ waitSteps t ≤ waitSteps s - 1 := by
  unfold waitSteps
  cases hs : s.inputs with
  | nil =>
    obtain ⟨t, ht, hwt, hinputs, hrem⟩ := waiting_step_engine h (List.nil_subset _) (step_empty hs)
    exact ⟨t, ht, hwt, by simpa [hinputs] using hrem⟩
  | cons e es =>
    have hes : es ⊆ s.inputs := hs ▸ List.subset_cons_self e es
    obtain rfl | ⟨key, i, rfl, hd, hr⟩ := h.inputs e (by simp [hs])
    · obtain ⟨t, ht, hwt, hinputs, hrem⟩ := waiting_step_engine h hes (step_engine hs)
      exact ⟨t, ht, hwt, by rw [hinputs, List.length_cons]; omega⟩
    · obtain ⟨r, n, hst⟩ := step_read_frame hd hr hs
      exact ⟨_, hst, ⟨stepKeepsTheInvariant s _ h.inv hst, h.written, fun e he => h.inputs e (hes he), h.ends⟩,
        by simp [remainingSteps]⟩

/-- A waiting block is done after `waitSteps`. -/
theorem waiting_run {k : Nat} {s : State} (h : Waiting s) (hk : waitSteps s ≤ k) :
    ∃ t, Host.Core.run Sys2Proof.core k s = .next t ∧ t.busy = false ∧ t.done = true := by
  induction k generalizing s with
  | zero =>
    have hb : s.busy = false := Bool.eq_false_iff.mpr fun hb => by
      have := remainingSteps_pos h.inv hb
      unfold waitSteps at hk
      omega
    exact ⟨s, rfl, hb, h.ends.resolve_left (Bool.eq_false_iff.mp hb)⟩
  | succ k ih =>
    obtain ⟨t, hst, hwt, hlen⟩ := waiting_step h
    rw [run_succ_of_step k hst]
    exact ih hwt (by omega)

/-- Settles O48, by induction on the steps: each one takes a read or a turn off the list, or runs a step of the decode, and a
block with neither left is done. -/
theorem waitTerminates : Obligations.WaitTerminates :=
  fun _ hinv hb hw hin => waiting_run ⟨hinv, hw, hin, .inl hb⟩ (Nat.le_refl _)

end Sys2Proof.Safety
end

section
/-! PROOFS. FILL (30_encoding.md R64) of a range of either memory. -/

namespace Sys2Proof.Machine

/-- Bytes stored one after the other are the bytes stored at once. -/
theorem storeBytes_append (m : Memory) (a : Nat) (vs ws : List Byte) :
    storeBytes m a (vs ++ ws) = storeBytes (storeBytes m a vs) (a + vs.length) ws := by
  induction vs generalizing m a with
  | nil => rfl
  | cons v vs ih =>
    rw [List.cons_append, storeBytes, ih, List.length_cons, Nat.add_assoc, Nat.add_comm 1]
    rfl

/-- Bytes stored in a memory from a block offset on; `run_pseudoFill` ties it to the accesses of FILL. -/
def storedIn (r : Region) (a : Nat) (vs : List Byte) (s : State) : State :=
  match r with
  | .inRam => setInRam (storeBytes s.inRam a vs) s
  | .outRam => setOutRam (storeBytes s.outRam (a - Config.outBase) vs) s
  | .regs => s

theorem storedIn_busy (r : Region) (a : Nat) (vs : List Byte) (s : State) : (storedIn r a vs s).busy = s.busy := by
  cases r <;> rfl

theorem storedIn_inputs (r : Region) (a : Nat) (vs : List Byte) (s : State) : (storedIn r a vs s).inputs = s.inputs := by
  cases r <;> rfl

theorem storedIn_append {r : Region} {a : Nat} (hlo : regionBase r ≤ a) (vs ws : List Byte) (s : State) :
    storedIn r (a + vs.length) ws (storedIn r a vs s) = storedIn r a (vs ++ ws) s := by
  cases r with
  | regs => rfl
  | inRam =>
    simp only [storedIn, storeBytes_append]
    rfl
  | outRam =>
    have hlo : Config.outBase ≤ a := hlo
    simp only [storedIn, storeBytes_append, Nat.sub_add_comm hlo]
    rfl

/-- The model's own fields after n completed writes, with es left of the inputs; `step_fill` and `run_pseudoFill` tie it to the
model. -/
def completed (n : Nat) (es : List Input) (s : State) : State :=
  { s with inputs := es, response := if n = 0 then s.response else .writeOk, draws := s.draws + n }

theorem completed_completed (m n : Nat) (es fs : List Input) (s : State) :
    completed n fs (completed m es s) = completed (n + m) fs s := by
  by_cases hm : m = 0 <;> by_cases hn : n = 0 <;> simp [completed, hm, hn, Nat.add_comm n, Nat.add_assoc]

theorem completed_storedIn (n : Nat) (es : List Input) (r : Region) (a : Nat) (vs : List Byte) (s : State) :
    completed n es (storedIn r a vs s) = storedIn r a vs (completed n es s) := by
  cases r <;> rfl

/-- The bytes of a value made of up to four bytes. -/
theorem leBytes_leValue {bs : List Byte} (h : bs.length ≤ 4) : leBytes bs.length (BitVec.ofNat 32 (leValue bs)) = bs :=
  List.ext_getElem (leBytes_length _ _) fun k _ hk => by simp [leBytes, byteOf_ofNat_leValue h hk]

/-- The data of a FILL access is the byte four times. -/
theorem leBytes_fillWord (b : Byte) : leBytes 4 (BitVec.ofNat 32 (b.toNat * 0x01010101)) = List.replicate 4 b := by
  have hv : b.toNat * 0x01010101 = leValue (List.replicate 4 b) := by
    simp only [List.replicate, leValue]
    omega
  rw [hv]
  exact leBytes_leValue (bs := List.replicate 4 b) (Nat.le_refl 4)

/-- FILL of one word more is an access and the FILL of the rest. -/
theorem pseudoFill_succ (a n : Nat) (b : Byte) : pseudoFill a (4 * (n + 1)) b =
    hostWrite .four (BitVec.ofNat 20 a) (BitVec.ofNat 32 (b.toNat * 0x01010101)) :: pseudoFill (a + 4) (4 * n) b := by
  have hoff : ∀ k, a + 4 * (k + 1) = a + 4 + 4 * k := fun k => by omega
  simp [pseudoFill, List.range_succ_eq_map, Function.comp_def, hoff]

/-- An aligned word inside a region passes the checks, and its offset fits in 20 bits. -/
theorem passesIn_four {r : Region} {a : Nat} (hal : a % 4 = 0) (hlo : regionBase r ≤ a)
    (hhi : a + 4 ≤ regionBase r + regionSize r) :
    (BitVec.ofNat 20 a).toNat = a ∧ passesIn r .four (BitVec.ofNat 20 a) = true := by
  have ha : (BitVec.ofNat 20 a).toNat = a := by
    have : regionBase r + regionSize r < 2 ^ 20 := by cases r <;> decide
    rw [BitVec.toNat_ofNat]
    omega
  have hin : insideRegion r .four (BitVec.ofNat 20 a) = true := insideRegion_iff.mpr (by rw [ha]; exact ⟨hlo, hhi⟩)
  have hcheck : busCheck .four (BitVec.ofNat 20 a) = none :=
    busCheck_eq_none.mpr ⟨r, hin, acceptsWidth_iff.mpr fun _ => rfl, by rw [ha]; exact hal⟩
  exact ⟨ha, passesIn_iff.mpr ⟨hcheck, regionOf_eq_some.mpr hin⟩⟩

/-- A HOST write of OUT_RAM that passes the checks, while BUSY = 0. -/
theorem step_hostWrite_outRam {s : State} {n : Width} {a : Offset} {v : Word} {es : List Input}
    (hs : s.inputs = hostWrite n a v :: es) (ha : passesIn .outRam n a = true) (hv : fitsWidth n v = true)
    (hb : s.busy = false) : step s = .next { s with
      outRam := memWrite s.outRam (a.toNat - Config.outBase) (nBytes n) v, inputs := es, response := .writeOk,
      draws := s.draws + 1 } := by
  have hdec := (AccessRow.covers_outRam .wr ha).decode (v := v) (passesIn_iff.mp ha).1 hv
  rw [step_bus hs hdec, prepared_eq_update]
  exact execOutWr_idle ha hb

/-- One access of FILL. -/
theorem step_fill {r : Region} {s : State} {a : Nat} {b : Byte} {es : List Input} (hr : r ≠ .regs) (hal : a % 4 = 0)
    (hlo : regionBase r ≤ a) (hhi : a + 4 ≤ regionBase r + regionSize r) (hb : s.busy = false)
    (hs : s.inputs = hostWrite .four (BitVec.ofNat 20 a) (BitVec.ofNat 32 (b.toNat * 0x01010101)) :: es) :
    step s = .next (storedIn r a (List.replicate 4 b) (completed 1 es s)) := by
  obtain ⟨ha, hp⟩ := passesIn_four hal hlo hhi
  cases r with
  | regs => exact absurd rfl hr
  | inRam =>
    rw [step_hostWrite_inRam hs hp (dataOk_wr_four _) hb, ha, memWrite, nBytes, leBytes_fillWord]
    rfl
  | outRam =>
    rw [step_hostWrite_outRam hs hp (dataOk_wr_four _) hb, ha, memWrite, nBytes, leBytes_fillWord]
    rfl

/-- The n accesses of a FILL inside a memory store the byte in the whole range. -/
theorem run_pseudoFill {r : Region} {n a : Nat} {s : State} {b : Byte} {es : List Input} (hr : r ≠ .regs) (hal : a % 4 = 0)
    (hlo : regionBase r ≤ a) (hhi : a + 4 * n ≤ regionBase r + regionSize r) (hb : s.busy = false)
    (hs : s.inputs = pseudoFill a (4 * n) b ++ es) :
    Host.Core.run Sys2Proof.core n s = .next (storedIn r a (List.replicate (4 * n) b) (completed n es s)) := by
  induction n generalizing a s with
  | zero =>
    have hs : s.inputs = es := hs
    subst hs
    cases r <;> rfl
  | succ n ih =>
    rw [pseudoFill_succ] at hs
    have hstep := step_fill hr hal hlo (by omega) hb hs
    have hrest := ih (a := a + 4)
      (s := storedIn r a (List.replicate 4 b) (completed 1 (pseudoFill (a + 4) (4 * n) b ++ es) s))
      (by omega) (by omega) (by omega) ((storedIn_busy r a _ _).trans hb) (storedIn_inputs r a _ _)
    have happ := storedIn_append hlo (List.replicate 4 b) (List.replicate (4 * n) b) (completed (n + 1) es s)
    rw [List.length_replicate, List.replicate_append_replicate] at happ
    rw [completed_storedIn, completed_completed, happ] at hrest
    rw [show 4 * (n + 1) = 4 + 4 * n by omega]
    exact (run_succ_of_step n hstep).trans hrest

/-- A byte of a filled range. -/
theorem readByte_storeBytes_replicate (m : Memory) {a i count : Nat} (b : Byte) (hlo : a ≤ i) (hhi : i < a + count) :
    readByte (storeBytes m a (List.replicate count b)) i = some b := by
  obtain ⟨k, rfl⟩ := Nat.exists_eq_add_of_le hlo
  rw [readByte_storeBytes_inside m a _ (k := k) (by rw [List.length_replicate]; omega), List.getElem_replicate]

/-- Settles O51: the accesses of FILL store the byte count times from a on. -/
theorem fillWritesItsRange : Obligations.FillWritesItsRange := by
  intro s a count b es hb hal hcount hs after
  obtain ⟨n, rfl⟩ : ∃ n, count = 4 * n := ⟨count / 4, by omega⟩
  have hn : 4 * n / 4 = n := by omega
  have hafter : completed n es s = after := by simp [completed, after, hn]
  rw [hn, ← hafter]
  refine ⟨fun hhi => ?_, fun hlo hhi => ?_⟩
  · exact ⟨_, run_pseudoFill (r := .inRam) nofun hal (Nat.zero_le a) (by simpa [regionBase, regionSize] using hhi) hb hs,
      fun i hi hi' => readByte_storeBytes_replicate _ b hi hi',
      fun i hi => readByte_storeBytes_outside _ _ _ (by rw [List.length_replicate]; exact hi),
      storeBytes_wf _ _⟩
  · exact ⟨_, run_pseudoFill (r := .outRam) nofun hal hlo hhi hb hs,
      fun i hi hi' => readByte_storeBytes_replicate _ b (Nat.sub_le_sub_right hi _) (by simp only [Config.outBase]; omega),
      fun j hj => readByte_storeBytes_outside _ _ _ (by simp only [List.length_replicate, Config.outBase]; omega),
      storeBytes_wf _ _⟩

end Sys2Proof.Machine
end

section
/-! PROOFS. A DECODE command and an ENGINE that has nothing to do (40_decode_command.md R66, R68, R69). -/

namespace Sys2Proof.Machine

/-- A CTRL_WORD is the command of its bit 0, whatever its other bits are (30_encoding.md R57). -/
theorem decode_ctrlWord (d : Word) : decode ⟨.ctrlWord, d, 0#32⟩ = .ok (decodeCtrl d) :=
  decode_of_fits (f := .ctrlWord) d.isLt

/-- A CTRL write whose data has bit 0 = 1 issues DECODE. -/
theorem issueCommand_start {d : Word} (hd : d.getLsbD 0 = true) (s : State) : issueCommand d s = issueDecode s := if_pos hd

/-- A CTRL write whose data has bit 0 = 0 issues nothing. -/
theorem issueCommand_nop {d : Word} (hd : d.getLsbD 0 = false) (s : State) : issueCommand d s = s :=
  if_neg (Bool.eq_false_iff.mp hd)

/-- Settles O22, by the three cases of DECODE; ERR_REQUIRED is a constant and bit 0 alone selects the command. -/
theorem decodeCommandStartsOrFails : Obligations.DecodeCommandStartsOrFails := by
  refine ⟨fun s hb => ?_, fun s hb hl => ?_, fun s hb hl => ?_, fun s => readRegister_eq .errRequired s, fun d hd => ?_⟩
  · exact congrArg _ (if_pos hb)
  · obtain ⟨hb', -⟩ | ⟨-, -, he⟩ | ⟨-, hl', -⟩ := issueDecode_cases s
    · exact absurd hb' (by simp [hb])
    · exact congrArg _ he
    · omega
  · obtain ⟨hb', -⟩ | ⟨-, hl', -⟩ | ⟨-, -, he⟩ := issueDecode_cases s
    · exact absurd hb' (by simp [hb])
    · omega
    · exact congrArg _ he
  · exact (decode_ctrlWord d).trans (congrArg _ (if_pos hd))

/-- Settles O23: with bit 0 = 0 the word is CTRL_NOP, and a CTRL write of it issues nothing. -/
theorem controlNopChangesNothing : Obligations.ControlNopChangesNothing := by
  refine ⟨fun s => rfl, fun d hd => ?_, fun d s hd => ?_⟩
  · exact (decode_ctrlWord d).trans (congrArg _ (if_neg (Bool.eq_false_iff.mp hd)))
  · exact congrArg (fun u => Host.Outcome.next (respond .writeOk u)) (issueCommand_nop hd s)

/-- Settles O8: the ENGINE's turn of an idle block is SEQ_IDLE, which takes nothing off an empty list. -/
theorem idleBlockStays : Obligations.IdleBlockStays := by
  refine ⟨fun s => rfl, fun s hb hs => ?_⟩
  rw [step_empty hs, engineTurn_of_not_busy hb, prepared_eq_update, ← hs]
  rfl

end Sys2Proof.Machine
end

section
/-! PROOFS. Every transition of the block keeps the decode in progress right (40_decode_command.md R70, 42_palette_parse.md R84,
44_palette_lookup.md R90, 46_rgba_packer.md R96). -/

namespace Sys2Proof.Safety

open Sys2Proof.Machine

/-- An idle block has no decode in progress. -/
theorem DecodeSoFar.of_idle {s : State} (hb : s.busy = false) : DecodeSoFar s := by
  have hn : s.busy ≠ true := by simp [hb]
  exact ⟨fun h => absurd h hn, fun h => absurd h hn, fun h => absurd h hn⟩

/-- DECODE does not disturb a decode in progress, and one that it starts has loaded and written nothing yet. -/
theorem DecodeSoFar.issueDecode {s : State} (hd : DecodeSoFar s) :
    DecodeSoFar (issueDecode s) ∧ (s.busy = true → (issueDecode s).busy = true) := by
  obtain ⟨hb, he⟩ | ⟨hb, -, he⟩ | ⟨-, -, he⟩ := issueDecode_cases s <;> rw [he]
  · exact ⟨hd, id⟩
  · exact ⟨.of_idle hb, id⟩
  · exact ⟨startEngine_soFar _, fun _ => rfl⟩

theorem DecodeSoFar.issueCommand {s : State} (hd : DecodeSoFar s) (d : Word) :
    DecodeSoFar (issueCommand d s) ∧ (s.busy = true → (issueCommand d s).busy = true) := by
  obtain he | he := issueCommand_cases d s <;> rw [he]
  · exact hd.issueDecode
  · exact ⟨hd, id⟩

/-- A HOST access that answers a next state keeps the decode so far right and ends no decode: it writes a memory only while
BUSY = 0, and no other operation that writes a memory, PAL or the position is a HOST access. -/
theorem DecodeSoFar.hostAccess {i : Instr} {s t : State} (hd : DecodeSoFar s) (he : Effect s i t)
    (hf : (encode i).format = .busTxn) : DecodeSoFar t ∧ (s.busy = true → t.busy = true) := by
  cases he with
  | own | inLenWr => exact ⟨{ hd with }, id⟩
  | inWr hb | outWr hb => exact ⟨.of_idle hb, id⟩
  | ctrlWr d =>
    obtain ⟨hd', hb⟩ := hd.issueCommand d
    exact ⟨{ hd' with }, hb⟩
  | decodeCmd | rgbaPack | seqPalLoad | seqRowStart | seqPixelPair => cases hf

/-- The ENGINE's turn keeps the decode so far right, and a busy ENGINE either stays busy or leaves the decode result. -/
theorem DecodeSoFar.exec_engineTurn {s t : State} (hinv : BlockInv s) (hd : DecodeSoFar s)
    (h : exec (engineTurn s) s = .next t) : DecodeSoFar t ∧ (s.busy = true → t.busy = true ∨ outputCorrect t) := by
  cases hb : s.busy with
  | true =>
    obtain ⟨hdt, hend⟩ := decodeSoFar_engineTurn hinv hb hd h
    exact ⟨hdt, fun _ => hend.imp_right fun ⟨_, _, hout⟩ => hout⟩
  | false =>
    rw [engineTurn_of_not_busy hb] at h
    cases h
    exact ⟨hd, nofun⟩

/-- The inputs that are left after an operation are among those that were to come. -/
theorem subset_of_issued {s : State} {i : Instr} {es : List Input} (h : Issued s i es) : es ⊆ s.inputs := by
  cases h with
  | bus _ _ _ _ hs | unit _ _ _ hs => exact hs ▸ List.subset_cons_self _ _
  | engine _ _ hs =>
    obtain hs | ⟨-, rfl⟩ := hs
    · exact hs ▸ List.subset_cons_self _ _
    · exact List.nil_subset _

/-- Settles O44, by where the operation of the step comes from: a HOST access leaves a decode in progress alone, the ENGINE's turn
advances it, and a RESET abandons it. -/
theorem everyTransitionKeepsTheDecodeCorrect : Obligations.EveryTransitionKeepsTheDecodeCorrect := by
  intro s t hinv hd honly h
  have hinvt : BlockInv t := stepKeepsTheInvariant s t hinv h
  obtain ⟨es, hs, rfl⟩ | ⟨i, es, hi, h⟩ := step_cases h
  · exact ⟨.of_idle rfl, fun e he => honly e (hs ▸ List.mem_cons_of_mem _ he), fun _ => nofun⟩
  have honlyt : onlyTransitions t := by
    obtain ⟨-, -, -, -, -, -, -, hinputs⟩ := eachStateHasItsOwnWriters i _ t h
    have hes : t.inputs = es := by rw [hinputs, prepared_eq_update]
    exact fun e he => honly e (subset_of_issued hi (hes ▸ he))
  suffices hkey : DecodeSoFar t ∧ (s.busy = true → t.busy = true ∨ outputCorrect t) by
    obtain ⟨hdt, hend⟩ := hkey
    exact ⟨hdt, honlyt, fun hb hdone => (hend hb).resolve_left fun hbt => hinvt.status.busyDone ⟨hbt, hdone⟩⟩
  have hdp := hd.prepared i es
  have hbp : (prepared i es s).busy = s.busy := by rw [prepared_eq_update]
  rw [← hbp]
  cases hi with
  | bus key v _ _ hs hdec =>
    obtain ⟨hdt, hbt⟩ := hdp.hostAccess (exec_effect h) (format_of_decode hdec)
    exact ⟨hdt, fun hb => .inl (hbt hb)⟩
  | unit op _ _ hs _ => exact absurd rfl (honly (.unit op) (by simp [hs]) op)
  | engine _ _ _ hturn =>
    rw [← engineTurn_prepared i es s] at hturn
    exact hdp.exec_engineTurn (hinv.prepared i es) (hturn ▸ h)

end Sys2Proof.Safety
end

section
/-! PROOFS. The decode as a whole: DecodeRef's regions (40_decode_command.md R65, 41_region_extraction.md R81), one ENGINE step of it
(70_reset_and_hazards.md R137), and its result (40_decode_command.md R70, R72). -/

namespace Sys2Proof.Safety

open Sys2Proof.Machine

/-- Settles O31: every byte DecodeRef looks at for a pixel of the bitmap stands in its regions. -/
theorem referenceReadsOnlyItsRegions : Obligations.ReferenceReadsOnlyItsRegions :=
  fun _ _ h _ hj => decodeRef_congr h hj

/-- Settles O47: the ENGINE's turn does not depend on the inputs, and with the input written a busy ENGINE's turn succeeds. -/
theorem engineStepAdvancesTheDecode : Obligations.EngineStepAdvancesTheDecode := by
  intro s es hinv hb hw hs
  have hinv' := hinv.prepared (engineTurn s) es
  have hturn := engineTurn_prepared (engineTurn s) es s
  have hstep := step_engine hs
  rw [prepared_eq_update] at hinv' hturn hstep
  obtain ⟨t, ht⟩ := engineTurn_succeeds hinv' hb hw
  have hrem := remainingSteps_engineTurn hinv' hb ht
  obtain ⟨hin, -, hinputs⟩ := engineTurn_frame ht
  rw [hturn] at ht
  exact ⟨t, hstep.trans ht, hrem, hinputs, hin⟩

/-- A CTRL write whose data has bit 0 = 1 does what the `DECODE` pseudo-instruction does. -/
theorem step_ctrlWrite_start {s : State} {d : Word} (hd : d.getLsbD 0 = true) (hs : s.inputs = [.bus 0x608000#32 d]) :
    step s = step (setInputs pseudoDecode s) := by
  have hctrl : step s = .next (respond .writeOk (issueCommand d (tick (setInputs [] s)))) :=
    step_hostWrite_reg (r := .ctrl) hs
  rw [hctrl, issueCommand_start hd, step_pseudoDecode rfl]
  rfl

/-- States that step alike run alike. -/
theorem run_succ_congr {s s' : State} (k : Nat) (h : step s = step s') :
    Host.Core.run Sys2Proof.core (k + 1) s = Host.Core.run Sys2Proof.core (k + 1) s' := by
  simp only [Host.Core.run, Sys2Proof.core, h]

/-- An idle block with the input written and IN_LEN long enough runs a whole decode after any CTRL write that issues DECODE. -/
theorem run_ctrlWrite_start {s : State} {d : Word} (hinv : BlockInv s) (hb : s.busy = false) (hlen : 32768 ≤ s.inLen.toNat)
    (hw : inputWritten s.inRam) (hd : d.getLsbD 0 = true) (hs : s.inputs = [.bus 0x608000#32 d]) :
    ∃ t, Host.Core.run Sys2Proof.core (1 + 32456) s = .next t ∧ BlockInv t ∧ t.done = true ∧ t.busy = false ∧
      outputCorrect t ∧ t.inRam = s.inRam ∧ t.inLen = s.inLen := by
  have hinv' : BlockInv (setInputs pseudoDecode s) := hinv.frame _ _ _ _ _ _ _
  rw [Nat.add_comm, run_succ_congr _ (step_ctrlWrite_start hd hs), Nat.add_comm]
  exact run_pseudoDecode hinv' hb hlen hw rfl

/-- Settles O45: the decode runs to its end, and the invariant there leaves no error record and PHASE = IDLE. -/
theorem completedDecodeEqualsReference : Obligations.CompletedDecodeEqualsReference := by
  intro s d hinv hb hlen hw hd hs
  obtain ⟨t, ht, hinvt, hdone, hbt, hout, hin, hlent⟩ := run_ctrlWrite_start hinv hb hlen hw hd hs
  have herr : t.err = false := by simpa [hdone] using hinvt.status.doneErr
  have hactual : t.errActual = 0#32 := by simpa [herr] using hinvt.status.errActual
  obtain ⟨hphase, -⟩ := hinvt.of_idle hbt
  exact ⟨t, ht, hdone, hbt, herr, hphase, hout, hin, hlent, hactual⟩

/-- The decode result and the canonical form fix OUT_RAM. -/
theorem outRam_eq_of_outputCorrect {s t : State} (hs : MemInv s) (ht : MemInv t) (hin : s.inRam = t.inRam)
    (hso : outputCorrect s) (hto : outputCorrect t) : s.outRam = t.outRam := by
  refine eq_of_readByte_eq hs.outWf ht.outWf fun j => ?_
  by_cases hj : j < Config.outSize
  · rw [hso j hj, hto j hj, hin]
  · rw [readByte_past_size hs.outSize (Nat.le_of_not_lt hj), readByte_past_size ht.outSize (Nat.le_of_not_lt hj)]

/-- Settles O49: each run ends with OUT_RAM the decode result of the same IN_RAM. -/
theorem decodeDependsOnlyOnTheInput : Obligations.DecodeDependsOnlyOnTheInput := by
  intro s s' t t' d d' hinv hinv' hb hb' hlen hlen' hin hw hd hd' hs hs' hrun hrun'
  obtain ⟨u, hu, hinvu, -, -, hout, hinu, -⟩ := run_ctrlWrite_start hinv hb hlen hw hd hs
  obtain ⟨u', hu', hinvu', -, -, hout', hinu', -⟩ := run_ctrlWrite_start hinv' hb' hlen' (hin ▸ hw) hd' hs'
  obtain rfl : t = u := Host.Outcome.next.inj (hrun.symm.trans hu)
  obtain rfl : t' = u' := Host.Outcome.next.inj (hrun'.symm.trans hu')
  exact outRam_eq_of_outputCorrect hinvu.mem hinvu'.mem (hinu.trans (hin.trans hinu'.symm)) hout hout'

end Sys2Proof.Safety
end

section
/-! PROOFS. The address functions of 41_region_extraction.md R76 to R80: each is mixed-radix arithmetic, so its regions, its onto
and its one-to-one facts follow from division with remainder. -/

namespace Sys2Proof.Machine

theorem pixAddr_eq (row col : Nat) : pixAddr row col = 160 * row + col := rfl

theorem scbAddr_eq (row : Nat) : scbAddr row = 32000 + row := rfl

theorem palAddr_eq (p c : Nibble) : palAddr p c = 32256 + 32 * p.toNat + 2 * c.toNat := rfl

theorem outAddr_eq (y x : Nat) : outAddr y x = 4 * (320 * y + x) := rfl

/-- PIX_ADDR takes the positions of the bitmap onto [0, 32000): the row is the quotient by 160, the column the remainder. -/
theorem lt_iff_exists_pixAddr (i : Nat) : i < 32000 ↔ ∃ row col, row < 200 ∧ col < 160 ∧ pixAddr row col = i := by
  constructor
  · intro hi
    exact ⟨i / 160, i % 160, by omega, by omega, Nat.div_add_mod i 160⟩
  · rintro ⟨row, col, hrow, hcol, rfl⟩
    rw [pixAddr_eq]
    omega

theorem pixAddr_inj {row col row' col' : Nat} (hcol : col < 160) (hcol' : col' < 160)
    (h : pixAddr row col = pixAddr row' col') : row = row' ∧ col = col' := by
  rw [pixAddr_eq, pixAddr_eq] at h
  omega

theorem palAddr_inj {p c p' c' : Nibble} (h : palAddr p c = palAddr p' c') : p = p' ∧ c = c' := by
  rw [palAddr_eq, palAddr_eq] at h
  have := c.isLt
  have := c'.isLt
  exact ⟨BitVec.eq_of_toNat_eq (by omega), BitVec.eq_of_toNat_eq (by omega)⟩

/-- PAL_ADDR takes the entries onto the even offsets of [32256, 32768): the entry of an offset is the one its PIDX names. -/
theorem even_iff_exists_palAddr (i : Nat) : (32256 ≤ i ∧ i < 32768 ∧ i % 2 = 0) ↔ ∃ p c, palAddr p c = i := by
  constructor
  · rintro ⟨hlo, hhi, heven⟩
    refine ⟨pidxPalette (.ofNat 8 ((i - 32256) / 2)), pidxColour (.ofNat 8 ((i - 32256) / 2)), ?_⟩
    rw [palAddr_pidx, BitVec.toNat_ofNat]
    omega
  · rintro ⟨p, c, rfl⟩
    rw [palAddr_eq]
    have := p.isLt
    have := c.isLt
    omega

/-- The low bytes of the entries are the even offsets of the palette region, so their high bytes are the odd ones. -/
theorem mem_palRegion_iff_exists_palAddr (i : Nat) :
    (32256 ≤ i ∧ i < 32768) ↔ ∃ p c, palAddr p c = i ∨ palAddr p c + 1 = i := by
  constructor
  · rintro ⟨hlo, hhi⟩
    obtain ⟨p, c, h⟩ := (even_iff_exists_palAddr (i - i % 2)).mp (by omega)
    exact ⟨p, c, by omega⟩
  · rintro ⟨p, c, h⟩
    have := (even_iff_exists_palAddr _).mpr ⟨p, c, rfl⟩
    omega

/-- The bitmap lies below the ScanlineControl bytes of the scanlines, and these below the palettes. -/
theorem pixAddr_lt_scbAddr_lt_palAddr {row col r : Nat} (p c : Nibble) (hrow : row < 200) (hcol : col < 160) (hr : r < 200) :
    pixAddr row col < scbAddr r ∧ scbAddr r < palAddr p c := by
  rw [pixAddr_eq, scbAddr_eq, palAddr_eq]
  omega

/-- OUT_ADDR + j takes the bytes of the pixels onto [0, 256000): the byte is the remainder by 4, and the pixel's number, the
quotient, divides by 320 into its position. -/
theorem lt_iff_exists_outAddr (i : Nat) : i < 256000 ↔ ∃ y x j, y < 200 ∧ x < 320 ∧ j < 4 ∧ outAddr y x + j = i := by
  constructor
  · intro hi
    refine ⟨i / 4 / 320, i / 4 % 320, i % 4, by omega, by omega, by omega, ?_⟩
    rw [outAddr_eq, Nat.div_add_mod, Nat.div_add_mod]
  · rintro ⟨y, x, j, hy, hx, hj, rfl⟩
    rw [outAddr_eq]
    omega

theorem outAddr_add_inj {y x j y' x' j' : Nat} (hx : x < 320) (hj : j < 4) (hx' : x' < 320) (hj' : j' < 4)
    (h : outAddr y x + j = outAddr y' x' + j') : y = y' ∧ x = x' ∧ j = j' := by
  rw [outAddr_eq, outAddr_eq] at h
  omega

/-- Settles O30, clause by clause. -/
theorem addressFunctionsAreOneToOne : Obligations.AddressFunctionsAreOneToOne :=
  ⟨lt_iff_exists_pixAddr,
    fun _ _ _ _ _ hcol _ hcol' => pixAddr_inj hcol hcol',
    even_iff_exists_palAddr,
    fun _ _ _ _ => palAddr_inj,
    mem_palRegion_iff_exists_palAddr,
    fun _ _ _ p c => pixAddr_lt_scbAddr_lt_palAddr p c,
    lt_iff_exists_outAddr,
    fun _ _ _ _ _ _ _ hx hj _ hx' hj' => outAddr_add_inj hx hj hx' hj'⟩

end Sys2Proof.Machine
end

section
/-! PROOFS. PALETTE_WORD_PARSE and SEQ_PAL_LOAD (42_palette_parse.md R82, R83). -/

namespace Sys2Proof.Machine

/-- R4 is bits 11:8 of the colour word. -/
theorem wordRed_toNat (w : BitVec 16) : (wordRed w).toNat = w.toNat / 256 % 16 := by
  rw [wordRed, BitVec.extractLsb'_toNat, Nat.shiftRight_eq_div_pow]

/-- G4 is bits 7:4 of the colour word. -/
theorem wordGreen_toNat (w : BitVec 16) : (wordGreen w).toNat = w.toNat / 16 % 16 := by
  rw [wordGreen, BitVec.extractLsb'_toNat, Nat.shiftRight_eq_div_pow]

/-- B4 is bits 3:0 of the colour word. -/
theorem wordBlue_toNat (w : BitVec 16) : (wordBlue w).toNat = w.toNat % 16 := by
  rw [wordBlue, BitVec.extractLsb'_toNat, Nat.shiftRight_zero]

/-- The channels of a colour word are three nibbles of its two bytes; the high nibble of `hi` is ignored. -/
theorem parseEntry_eq_nibbles (lo hi : Byte) : parseEntry lo hi = ⟨loNibble hi, hiNibble lo, loNibble lo⟩ := by
  have := lo.isLt
  simp only [parseEntry, PalEntry.mk.injEq, ← BitVec.toNat_inj, wordRed_toNat, wordGreen_toNat, wordBlue_toNat,
    colourWord_toNat, hiNibble_toNat, loNibble_toNat]
  omega

/-- The advance after a palette entry as one update: at 255 PIDX starts again and PHASE goes on. -/
theorem advancePidx_eq (s : State) : advancePidx s = { s with
    pidx := if s.pidx = 255#8 then 0#8 else s.pidx + 1#8
    phase := if s.pidx = 255#8 then .rowStart else s.phase } := by
  obtain ⟨hp, h⟩ | ⟨hp, h⟩ := advancePidx_cases s
  · rw [h, if_pos hp, if_pos hp]
  · rw [h, if_neg hp, if_neg hp]

/-- SEQ_PAL_LOAD with both bytes of entry PIDX written. -/
theorem execSeqPalLoad_of_written {s : State} {lo hi : Byte} (hlo : readByte s.inRam (32256 + 2 * s.pidx.toNat) = some lo)
    (hhi : readByte s.inRam (32256 + 2 * s.pidx.toNat + 1) = some hi) :
    execSeqPalLoad s =
      .next (advancePidx (setPal (palIndex (pidxPalette s.pidx) (pidxColour s.pidx)) (parseEntry lo hi) s)) := by
  rw [← palAddr_pidx] at hlo hhi
  exact (engineRead_of_written hlo).trans (engineRead_of_written hhi)

/-- SEQ_PAL_LOAD with one of the bytes of entry PIDX not written: the low byte is read first, and either read faults. -/
theorem execSeqPalLoad_of_unwritten {s : State} (h : readByte s.inRam (32256 + 2 * s.pidx.toNat) = none ∨
    readByte s.inRam (32256 + 2 * s.pidx.toNat + 1) = none) : execSeqPalLoad s = .fault .unwrittenInput := by
  rw [← palAddr_pidx] at h
  cases hlo : readByte s.inRam (palAddr (pidxPalette s.pidx) (pidxColour s.pidx)) with
  | none => exact engineRead_of_unwritten hlo
  | some lo =>
    have hhi := h.resolve_left (by simp [hlo])
    exact (engineRead_of_written hlo).trans (engineRead_of_unwritten hhi)

/-- Settles O24: the entry written is the one at PIDX, and the advance is that of `advancePidx_eq`. -/
theorem paletteLoadStep : Obligations.PaletteLoadStep := by
  refine ⟨rfl, fun s lo hi hlo hhi => ?_, fun s h => execSeqPalLoad_of_unwritten h⟩
  refine ⟨s.pal.set s.pidx.toNat (parseEntry lo hi) s.pidx.isLt, ?_, ?_, fun i hi => ?_⟩
  · refine (execSeqPalLoad_of_written hlo hhi).trans ?_
    simp only [advancePidx_eq, setPal, palIndex_pidx]
  · rw [Vector.getElem?_set_self, parseEntry_eq_nibbles]
    rfl
  · exact Vector.getElem?_set_ne _ hi.symm

end Sys2Proof.Machine
end

section
/-! PROOFS. The datapath units run on their own (R82, R85, R87, R89, R91): the operand word of each is its encoding, so the
decoder's half is the round trip of the encoding. -/

namespace Sys2Proof.Machine

theorem nibble_append_toNat (p c : Nibble) : (p ++ c).toNat = 16 * p.toNat + c.toNat := by
  rw [BitVec.toNat_append, ← Nat.shiftLeft_add_eq_or_of_lt c.isLt, Nat.shiftLeft_eq]
  omega

/-- The product 17 * v fits in 8 bits. -/
theorem expand_toNat (v : Nibble) : (expand v).toNat = 17 * v.toNat := by
  rw [expand_eq_append, nibble_append_toNat]
  omega

theorem decode_colourWord (lo hi : Byte) :
    decode ⟨.colourWord, BitVec.ofNat 32 (lo.toNat + 256 * hi.toNat), 0#32⟩ = .ok (.paletteWordParse lo hi) := by
  rw [← colourWord_toNat, BitVec.ofNat_toNat]
  exact decodeInvertsEncode (.paletteWordParse lo hi) rfl

theorem decode_scbByte (scb : Byte) : decode ⟨.scbByte, BitVec.ofNat 32 scb.toNat, 0#32⟩ = .ok (.scbSelect scb) := by
  rw [BitVec.ofNat_toNat]
  exact decodeInvertsEncode (.scbSelect scb) rfl

theorem decode_pixelByte (b : Byte) : decode ⟨.pixelByte, BitVec.ofNat 32 b.toNat, 0#32⟩ = .ok (.pixelSplit b) := by
  rw [BitVec.ofNat_toNat]
  exact decodeInvertsEncode (.pixelSplit b) rfl

theorem decode_palSelect (psel idx : Nibble) :
    decode ⟨.palSelect, BitVec.ofNat 32 (16 * psel.toNat + idx.toNat), 0#32⟩ = .ok (.paletteLookup psel idx) := by
  rw [← nibble_append_toNat, BitVec.ofNat_toNat]
  exact decodeInvertsEncode (.paletteLookup psel idx) rfl

theorem decode_channel (v : Nibble) : decode ⟨.channel, BitVec.ofNat 32 v.toNat, 0#32⟩ = .ok (.channelExpand v) := by
  rw [BitVec.ofNat_toNat]
  exact decodeInvertsEncode (.channelExpand v) rfl

/-- Settles O27: each unit records the value of its rule, and its encoding decodes to it. -/
theorem datapathUnitsAnswer : Obligations.DatapathUnitsAnswer := by
  refine ⟨decode_colourWord, decode_scbByte, decode_pixelByte, decode_palSelect, decode_channel, fun s =>
    ⟨fun lo hi => ⟨parseEntry lo hi, rfl, ?_⟩,
      fun scb => ⟨loNibble scb, rfl, loNibble_toNat scb⟩,
      fun b => ⟨hiNibble b, loNibble b, rfl, hiNibble_toNat b, loNibble_toNat b⟩,
      fun psel idx => ⟨lookup s psel idx, rfl, lookup_getElem? s psel idx⟩,
      fun v => ⟨expand v, rfl, expand_toNat v⟩⟩⟩
  rw [← colourWord_toNat]
  exact ⟨wordRed_toNat _, wordGreen_toNat _, wordBlue_toNat _⟩

end Sys2Proof.Machine
end

section
/-! PROOFS. SEQ_ROW_START (43_scanline_unpack.md R86). -/

namespace Sys2Proof.Machine

/-- SEQ_ROW_START with the ScanlineControl byte of ROW written. -/
theorem execSeqRowStart_of_written {s : State} {b : Byte} (h : readByte s.inRam (scbAddr s.row.toNat) = some b) :
    execSeqRowStart s = .next { s with psel := loNibble b, phase := .pixelPair } :=
  engineRead_of_written h

/-- SEQ_ROW_START with the ScanlineControl byte of ROW not written. -/
theorem execSeqRowStart_of_unwritten {s : State} (h : readByte s.inRam (scbAddr s.row.toNat) = none) :
    execSeqRowStart s = .fault .unwrittenInput :=
  engineRead_of_unwritten h

/-- Settles O25: the one byte the step reads is at SCB_ADDR(ROW), and it is either written or not. -/
theorem rowStartStep : Obligations.RowStartStep :=
  ⟨rfl, fun _ _ => execSeqRowStart_of_written, fun _ => execSeqRowStart_of_unwritten⟩

end Sys2Proof.Machine
end

section
/-! PROOFS. What one ScanlineControl byte decides in DecodeRef (43_scanline_unpack.md R88, 40_decode_command.md R65): DecodeRef looks
at it through the active palette of its scanline alone. -/

namespace Sys2Proof.Safety

open Sys2Proof.Machine

/-- The inputs agree everywhere but at the ScanlineControl byte r. -/
def AgreeOffScb (r : Nat) (f g : Nat → Byte) : Prop := ∀ i, i ≠ scbAddr r → g i = f i

section
variable {f g : Nat → Byte} {r : Nat} (h : AgreeOffScb r f g)
include h

/-- The PixelPlane lies below the ScanlineControl bytes. -/
theorem AgreeOffScb.refIndex_eq {y x : Nat} (hy : y < 200) (hx : x < 320) : refIndex g y x = refIndex f y x := by
  have hpix : 160 * y + x / 2 ≠ scbAddr r := by rw [scbAddr_eq]; omega
  simp only [refIndex, h _ hpix]

/-- The PaletteTable lies above the 256 ScanlineControl bytes. -/
theorem AgreeOffScb.refWord_eq (hr : r < 256) (p i : Nat) : refWord g p i = refWord f p i := by
  have hlo : 32256 + 32 * p + 2 * i ≠ scbAddr r := by rw [scbAddr_eq]; omega
  have hhi : 32256 + 32 * p + 2 * i + 1 ≠ scbAddr r := by rw [scbAddr_eq]; omega
  simp only [refWord, h _ hlo, h _ hhi]

/-- Every other scanline has its own ScanlineControl byte. -/
theorem AgreeOffScb.refPalette_eq {y : Nat} (hy : y ≠ r) : refPalette g y = refPalette f y := by
  have hscb : 32000 + y ≠ scbAddr r := by rw [scbAddr_eq]; omega
  rw [refPalette, h _ hscb, refPalette]

/-- The channels of a pixel under g are those of f's colour words, in the palette that g selects. -/
theorem AgreeOffScb.decodeRefPixel_eq (hr : r < 256) {y x : Nat} (hy : y < 200) (hx : x < 320) (ch : Nat) :
    decodeRefPixel g y x ch = if ch < 3 then
      BitVec.ofNat 8 (17 * refChannel (refWord f (refPalette g y) (refIndex f y x)) ch) else 255#8 := by
  rw [decodeRefPixel, h.refWord_eq hr, h.refIndex_eq hy hx]

/-- A byte of the result stays when the palette of its scanline does. -/
theorem AgreeOffScb.decodeRef_eq (hr : r < 256) {j : Nat} (hj : j < 256000)
    (hpal : refPalette g (j / 4 / 320) = refPalette f (j / 4 / 320)) : decodeRef g j = decodeRef f j := by
  rw [decodeRef, h.decodeRefPixel_eq hr (by omega) (by omega), hpal]
  rfl

end

/-- 17 * channel fits in a byte. -/
theorem ofNat_refChannel_toNat (w ch : Nat) : (BitVec.ofNat 8 (17 * refChannel w ch)).toNat = 17 * refChannel w ch := by
  have hch : refChannel w ch < 16 := Nat.mod_lt _ (by decide)
  rw [BitVec.toNat_ofNat]
  omega

/-- Settles O33: the palette of a scanline y changes only if y = r and the low nibble does, and scanline r then has the palette that
the new byte selects. -/
theorem scanlineControlChangesOnlyItsScanline : Obligations.ScanlineControlChangesOnlyItsScanline := by
  intro f r b hr g
  have hg : AgreeOffScb r f g := fun i hi => if_neg hi
  have hpal : refPalette g r = b.toNat % 16 := congrArg (BitVec.toNat · % 16) (if_pos rfl)
  refine ⟨fun j hj hout => ?_, fun hkeep j hj => ?_, fun hr200 x ch hx hch => ?_⟩
  · exact hg.decodeRef_eq hr hj (hg.refPalette_eq (by omega))
  · refine hg.decodeRef_eq hr hj ?_
    by_cases hy : j / 4 / 320 = r
    · rw [hy, hpal]
      exact hkeep.resolve_left (by omega)
    · exact hg.refPalette_eq hy
  · have hpix : decodeRef g (4 * (320 * r + x) + ch) = decodeRefPixel g r x ch := decodeRef_outAddr g r hx (by omega)
    rw [hpix, hg.decodeRefPixel_eq hr hr200 hx, if_pos hch, hpal, ofNat_refChannel_toNat]

end Sys2Proof.Safety
end

section
/-! PROOFS. CHANNEL_EXPAND as bit replication (45_channel_expander.md R92). -/

namespace Sys2Proof.Machine

theorem hiNibble_expand (v : Nibble) : hiNibble (expand v) = v := by
  rw [expand_eq_append, hiNibble_append]

theorem loNibble_expand (v : Nibble) : loNibble (expand v) = v := by
  rw [expand_eq_append, loNibble_append]

theorem expand_eq_shiftLeft_or (v : Nibble) : expand v = (v.setWidth 8 <<< 4) ||| v.setWidth 8 := by
  rw [expand_eq_append, BitVec.append_def, BitVec.shiftLeftZeroExtend_eq, BitVec.setWidth'_eq]

/-- The nibble is read back from the high half of its expansion. -/
theorem expand_injective : Function.Injective expand :=
  Function.LeftInverse.injective hiNibble_expand

/-- Settles O28: the two halves of the expansion are the nibble, and the order and the step of 17 are those of the product 17 * v. -/
theorem channelExpandReplicatesBits : Obligations.ChannelExpandReplicatesBits := by
  intro v w
  refine ⟨expand_toNat v, expand_eq_append v, hiNibble_expand v, loNibble_expand v, expand_eq_shiftLeft_or v,
    fun h => expand_injective h, fun hlt => ?_, fun hsucc => ?_⟩
  · rw [expand_toNat, expand_toNat]
    exact Nat.mul_lt_mul_of_pos_left hlt (by decide)
  · rw [expand_toNat, expand_toNat, hsucc, Nat.mul_succ]

end Sys2Proof.Machine
end

section
/-! PROOFS. RGBA_PACK (46_rgba_packer.md R94): the four bytes of a pixel, said as one fact about a memory. -/

namespace Sys2Proof.Machine

/-- The pixel whose red byte is at offset a has the expanded channels of e and alpha 0xFF (46_rgba_packer.md R94). -/
def HoldsPixel (m : Memory) (a : Nat) (e : PalEntry) : Prop :=
  readByte m a = some (BitVec.ofNat 8 (17 * e.r4.toNat)) ∧
  readByte m (a + 1) = some (BitVec.ofNat 8 (17 * e.g4.toNat)) ∧
  readByte m (a + 2) = some (BitVec.ofNat 8 (17 * e.b4.toNat)) ∧
  readByte m (a + 3) = some 0xFF#8

theorem holdsPixel_packPixel (y x : Nat) (e : PalEntry) (s : State) :
    HoldsPixel (packPixel y x e s).outRam (outAddr y x) e :=
  ⟨readByte_packPixel_inside y x e s (k := 0) (by decide), readByte_packPixel_inside y x e s (k := 1) (by decide),
    readByte_packPixel_inside y x e s (k := 2) (by decide), readByte_packPixel_inside y x e s (k := 3) (by decide)⟩

/-- Packing a pixel at other offsets keeps this one. -/
theorem HoldsPixel.packPixel {s : State} {a y x : Nat} {e : PalEntry} (h : HoldsPixel s.outRam a e) (e' : PalEntry)
    (ha : a + 4 ≤ outAddr y x ∨ outAddr y x + 4 ≤ a) : HoldsPixel (packPixel y x e' s).outRam a e := by
  obtain ⟨hr, hg, hb, halpha⟩ := h
  refine ⟨?_, ?_, ?_, ?_⟩ <;> rw [readByte_packPixel_outside _ _ _ _ (by omega)] <;> assumption

theorem execRgbaPack_of_pixel {y : BitVec 8} {x : BitVec 9} (r g b : Nibble) (s : State) (hy : y.toNat < 200)
    (hx : x.toNat < 320) : execRgbaPack y x r g b s = .next (packPixel y.toNat x.toNat ⟨r, g, b⟩ s) :=
  if_pos ⟨hy, hx⟩

/-- Settles O29: the new OUT_RAM is that of `packPixel`. -/
theorem rgbaPackWritesOnePixel : Obligations.RgbaPackWritesOnePixel := by
  intro y x r g b s hy hx
  obtain ⟨hr, hg, hb, halpha⟩ := holdsPixel_packPixel y.toNat x.toNat ⟨r, g, b⟩ s
  exact ⟨_, execRgbaPack_of_pixel r g b s hy hx, hr, hg, hb, halpha,
    fun j => readByte_packPixel_outside y.toNat x.toNat ⟨r, g, b⟩ s, packPixel_wf⟩

end Sys2Proof.Machine
end

section
/-! PROOFS. SEQ_PIXEL_PAIR (46_rgba_packer.md R95): the two pixels of a byte stand next to each other, so packing the right one keeps
the left one and every byte outside the eight. -/

namespace Sys2Proof.Machine

/-- The left pixel of the byte at (ROW, COL) starts the pair's eight bytes. -/
theorem outAddr_left (row col : Nat) : outAddr row (2 * col) = 1280 * row + 8 * col := by
  rw [outAddr_eq]; omega

/-- The right pixel follows the left one at once. -/
theorem outAddr_right (row col : Nat) : outAddr row (2 * col + 1) = 1280 * row + 8 * col + 4 := by
  rw [outAddr_eq]; omega

theorem holdsPixel_packPair_left (b : Byte) (s : State) :
    HoldsPixel (packPair b s).outRam (1280 * s.row.toNat + 8 * s.col.toNat) (lookup s s.psel (hiNibble b)) := by
  rw [← outAddr_left]
  exact (holdsPixel_packPixel _ _ _ s).packPixel _ (.inl (by rw [outAddr_left, outAddr_right]))

theorem holdsPixel_packPair_right (b : Byte) (s : State) :
    HoldsPixel (packPair b s).outRam (1280 * s.row.toNat + 8 * s.col.toNat + 4) (lookup s s.psel (loNibble b)) := by
  rw [← outAddr_right]
  exact holdsPixel_packPixel _ _ _ _

/-- Bytes outside the pair's eight stay. -/
theorem readByte_packPair_outside (b : Byte) (s : State) {j : Nat}
    (hj : j < 1280 * s.row.toNat + 8 * s.col.toNat ∨ 1280 * s.row.toNat + 8 * s.col.toNat + 8 ≤ j) :
    readByte (packPair b s).outRam j = readByte s.outRam j := by
  rw [packPair, readByte_packPixel_outside _ _ _ _ (by rw [outAddr_right]; omega),
    readByte_packPixel_outside _ _ _ _ (by rw [outAddr_left]; omega)]

theorem packPair_wf {b : Byte} {s : State} (h : Memory.wf s.outRam = true) : Memory.wf (packPair b s).outRam = true :=
  packPixel_wf (packPixel_wf h)

/-- The entry at number 16p + c of PAL is the one looked up. -/
theorem eq_lookup_of_getElem? {s : State} {p c : Nibble} {i : Nat} {e : PalEntry} (hi : i = c.toNat)
    (h : s.pal[16 * p.toNat + i]? = some e) : e = lookup s p c := by
  rw [hi, lookup_getElem?] at h
  exact (Option.some.inj h).symm

/-- The advance after a PixelPlane byte as one update: the end of a row moves ROW and PHASE, the end of the last row also BUSY and
DONE. -/
theorem advancePosition_eq (s : State) : advancePosition s = { s with
    col := if s.col.toNat < 159 then s.col + 1#8 else 0#8
    row := if s.col.toNat < 159 then s.row else if s.row.toNat < 199 then s.row + 1#8 else 0#8
    phase := if s.col.toNat < 159 then s.phase else if s.row.toNat < 199 then .rowStart else .idle
    busy := if s.col.toNat < 159 ∨ s.row.toNat < 199 then s.busy else false
    done := if s.col.toNat < 159 ∨ s.row.toNat < 199 then s.done else true } := by
  obtain ⟨hc, h⟩ | ⟨hc, hr, h⟩ | ⟨hc, hr, h⟩ := advancePosition_cases s
  · simp [h, hc]
  · simp [h, Nat.not_lt.mpr hc, hr]
  · simp [h, finishDecode, Nat.not_lt.mpr hc, Nat.not_lt.mpr hr]

/-- SEQ_PIXEL_PAIR with the PixelPlane byte of (ROW, COL) written. -/
theorem execSeqPixelPair_of_written {s : State} {b : Byte} (h : readByte s.inRam (pixAddr s.row.toNat s.col.toNat) = some b) :
    execSeqPixelPair s = .next (advancePosition (packPair b s)) :=
  engineRead_of_written h

/-- SEQ_PIXEL_PAIR with the PixelPlane byte of (ROW, COL) not written. -/
theorem execSeqPixelPair_of_unwritten {s : State} (h : readByte s.inRam (pixAddr s.row.toNat s.col.toNat) = none) :
    execSeqPixelPair s = .fault .unwrittenInput :=
  engineRead_of_unwritten h

/-- Settles O26: the new OUT_RAM is that of `packPair`, and the advance is that of `advancePosition_eq`. -/
theorem pixelPairStep : Obligations.PixelPairStep := by
  refine ⟨rfl, fun s b hb => ⟨(packPair b s).outRam, ?_, fun k e hk hpal => ?_, fun j => readByte_packPair_outside b s,
    packPair_wf⟩, fun s => execSeqPixelPair_of_unwritten⟩
  · refine (execSeqPixelPair_of_written hb).trans ?_
    rw [advancePosition_eq, packPair_eq]
  · obtain rfl | rfl : k = 0 ∨ k = 1 := by omega
    · rw [eq_lookup_of_getElem? (hiNibble_toNat b).symm hpal]
      exact holdsPixel_packPair_left b s
    · rw [eq_lookup_of_getElem? (loNibble_toNat b).symm hpal]
      exact holdsPixel_packPair_right b s

end Sys2Proof.Machine
end

section
/-! PROOFS. The HOST's accesses of the two memories (47_host_bus.md R97 to R100, R111): an access that fails the checks of
20_memory.md R40 is a BusError, and one that passes reads or stores its own bytes. -/

namespace Sys2Proof.Machine

/-- Every width divides the first offset of a region. -/
theorem nBytes_dvd_regionBase (n : Width) (r : Region) : nBytes n ∣ regionBase r := by
  cases n <;> cases r <;> decide

/-- Every width divides the size of a region. -/
theorem nBytes_dvd_regionSize (n : Width) (r : Region) : nBytes n ∣ regionSize r := by
  cases n <;> cases r <;> decide

/-- Settles O11: the end of a region is a multiple of the width, so an aligned access that begins below it also ends there. -/
theorem alignedAccessStaysInOneRegion : Obligations.AlignedAccessStaysInOneRegion := by
  intro n a r hal hlo hhi
  have hend : nBytes n ∣ regionBase r + regionSize r := Nat.dvd_add (nBytes_dvd_regionBase n r) (nBytes_dvd_regionSize n r)
  have hnext : nBytes n ∣ a.toNat + nBytes n := Nat.dvd_add_self_right.mpr (Nat.dvd_of_mod_eq_zero hal)
  exact insideRegion_iff.mpr ⟨hlo, Nat.le_of_lt_add_of_dvd (Nat.add_lt_add_right hhi _) hnext hend⟩

/-- An access of a memory that fails the checks is a BusError. -/
theorem checkedAccess_of_fails {r : Region} {n : Width} {a : Offset} {c : BusCause}
    {k : State → Host.Outcome State Fault Refusal} (h : busCheck n a = some c) (dir : Dir) (s : State) :
    checkedAccess r dir n a s k = .next (busError dir c s) := by
  simp only [checkedAccess, h]

/-- IN_RD of a failing access. -/
theorem execInRd_of_fails {n : Width} {a : Offset} {c : BusCause} (h : busCheck n a = some c) (s : State) :
    execInRd n a s = .next (busError .rd c s) :=
  checkedAccess_of_fails h .rd s

/-- IN_WR of a failing access. -/
theorem execInWr_of_fails {n : Width} {a : Offset} {v : Word} {c : BusCause} (h : busCheck n a = some c) (s : State) :
    execInWr n a v s = .next (busError .wr c s) :=
  checkedAccess_of_fails h .wr s

/-- OUT_RD of a failing access. -/
theorem execOutRd_of_fails {n : Width} {a : Offset} {c : BusCause} (h : busCheck n a = some c) (s : State) :
    execOutRd n a s = .next (busError .rd c s) :=
  checkedAccess_of_fails h .rd s

/-- OUT_WR of a failing access. -/
theorem execOutWr_of_fails {n : Width} {a : Offset} {v : Word} {c : BusCause} (h : busCheck n a = some c) (s : State) :
    execOutWr n a v s = .next (busError .wr c s) :=
  checkedAccess_of_fails h .wr s

/-- IN_WR of a passing access while BUSY = 1. -/
theorem execInWr_busy {n : Width} {a : Offset} {v : Word} {s : State} (h : passesIn .inRam n a = true) (hb : s.busy = true) :
    execInWr n a v s = .fault .hostWriteWhileBusy :=
  (execInWr_of_passes h).trans (if_pos hb)

/-- OUT_WR of a passing access while BUSY = 1. -/
theorem execOutWr_busy {n : Width} {a : Offset} {v : Word} {s : State} (h : passesIn .outRam n a = true)
    (hb : s.busy = true) : execOutWr n a v s = .fault .hostWriteWhileBusy :=
  (execOutWr_of_passes h).trans (if_pos hb)

/-- OUT_RD of a passing access while BUSY = 1. -/
theorem execOutRd_busy {n : Width} {a : Offset} {s : State} (h : passesIn .outRam n a = true) (hb : s.busy = true) :
    execOutRd n a s = .next (tick (respond (.readOk (memRead (Config.freeByte s.draws) a.toNat (nBytes n))) s)) :=
  (execOutRd_of_passes h).trans (if_pos hb)

/-- Settles O14: while BUSY = 0 the new IN_RAM is that of `memWrite`. -/
theorem inputWriteStoresTheBytes : Obligations.InputWriteStoresTheBytes := by
  refine ⟨fun n a v s c hc => execInWr_of_fails hc s, fun n a v s hw => ?_⟩
  obtain ⟨hp, -⟩ := Bool.and_eq_true_iff.mp hw
  refine ⟨fun hb => ⟨memWrite s.inRam a.toNat (nBytes n) v, execInWr_idle hp hb, fun k hk => ?_, fun b hb => ?_, fun hm => ?_⟩,
    execInWr_busy hp⟩
  · exact readByte_memWrite_inside _ _ _ _ hk
  · exact readByte_memWrite_outside _ _ _ _ hb
  · exact memWrite_wf _ _ _ hm

/-- Settles O15: while BUSY = 0 the new OUT_RAM is that of `memWrite` at the offset from the start of OUT_RAM. -/
theorem outputWriteStoresTheBytes : Obligations.OutputWriteStoresTheBytes := by
  refine ⟨fun n a v s c hc => execOutWr_of_fails hc s, fun n a v s hw => ?_⟩
  obtain ⟨hp, -⟩ := Bool.and_eq_true_iff.mp hw
  refine ⟨fun hb => ⟨memWrite s.outRam (a.toNat - Config.outBase) (nBytes n) v, execOutWr_idle hp hb, fun k hk => ?_,
    fun b hb => ?_, fun hm => ?_⟩, execOutWr_busy hp⟩
  · exact readByte_memWrite_inside _ _ _ _ hk
  · exact readByte_memWrite_outside _ _ _ _ hb
  · exact memWrite_wf _ _ _ hm

/-- Settles O12: the value is that of `memRead`, whose bytes are the ones a HOST read finds in IN_RAM. -/
theorem inputReadReturnsTheBytes : Obligations.InputReadReturnsTheBytes :=
  ⟨fun _ _ s _ hc => execInRd_of_fails hc s, fun n _ s hp =>
    ⟨_, execInRd_of_passes hp, memRead_lt _ _ n, fun _ hk => byteOf_memRead (hostInByte s) _ n hk⟩⟩

/-- Settles O13: the value is that of `memRead`, over OUT_RAM while BUSY = 0 and over the free values while BUSY = 1. -/
theorem outputReadReturnsTheBytes : Obligations.OutputReadReturnsTheBytes := by
  refine ⟨fun n a s c hc => execOutRd_of_fails hc s, fun n a s hp => ⟨fun hb => ?_, fun hb => ?_⟩⟩
  · exact ⟨_, execOutRd_idle hp hb, memRead_lt _ _ n, fun k hk => byteOf_memRead (hostOutByte s) _ n hk⟩
  · exact ⟨_, execOutRd_busy hp hb, memRead_lt _ _ n, fun k hk => byteOf_memRead (Config.freeByte s.draws) _ n hk⟩

end Sys2Proof.Machine
end

section
/-! PROOFS. The HOST's accesses of the register window (47_host_bus.md R101 to R110), said once for every register: its 4-byte
access is its operation, and an access of another width at its offset is BusError(WIDTH). -/

namespace Sys2Proof.Safety

open Sys2Proof.Machine

/-- A register's offset is a multiple of every width. -/
theorem regOffset_aligned (r : Reg) (n : Width) : (regOffset r).toNat % nBytes n = 0 := by
  cases r <;> cases n <;> decide

/-- An access at a register's offset stays in the register window, whatever its width is. -/
theorem insideRegion_regOffset (r : Reg) (n : Width) : insideRegion .regs n (regOffset r) = true := by
  obtain ⟨hlo, hhi⟩ := AccessRow.regOffset_range r
  exact alignedAccessStaysInOneRegion n (regOffset r) .regs (regOffset_aligned r n) hlo hhi

/-- An access of another width than 4 at a register's offset fails with WIDTH. -/
theorem busCheck_regOffset {n : Width} (hn : n ≠ .four) (r : Reg) : busCheck n (regOffset r) = some .width := by
  have hacc : acceptsWidth .regs n = false := Bool.eq_false_iff.mpr fun h => hn (acceptsWidth_iff.mp h rfl)
  rw [busCheck_of_inside (insideRegion_regOffset r n), if_pos hacc]

/-- BUS_FAULT of an access that fails the checks. -/
theorem execBusFault_of_fails {n : Width} {a : Offset} {c : BusCause} (h : busCheck n a = some c) (dir : Dir) (s : State) :
    execBusFault dir n a s = .next (busError dir c s) := by
  simp only [execBusFault, h]

/-- An access of another width than 4 at a register's offset decodes to BUS_FAULT. -/
theorem decode_regOffset_width {dir : Dir} {n : Width} {v : Word} (hn : n ≠ .four) (r : Reg) (hv : dataOk dir n v = true) :
    decode ⟨.busTxn, txnKey dir n (regOffset r), v⟩ = .ok (.busFault dir n (regOffset r) v) :=
  (decode_txnKey dir n _ v).trans (decodeFields_fails hv (busCheck_regOffset hn r))

theorem exec_selectReg_rd (r : Reg) (v : Word) (s : State) : exec (selectReg .rd r v) s = readRegister r s := by
  cases r <;> rfl

theorem exec_selectReg_wr (r : Reg) (d : Word) (s : State) : exec (selectReg .wr r d) s = writeRegister r d s := by
  cases r <;> rfl

/-- A read of a register returns its image. -/
theorem readsRegister (r : Reg) : ReadsRegister (regOffset r) (selectReg .rd r 0#32) (regValue r) :=
  ⟨decode_reg .rd r 0#32 rfl, exec_selectReg_rd r 0#32, fun _ hn =>
    ⟨decode_regOffset_width hn r rfl, execBusFault_of_fails (busCheck_regOffset hn r) .rd⟩⟩

/-- A write of a register has the effect of `regWrite`. -/
theorem writesRegister (r : Reg) : WritesRegister (regOffset r) (selectReg .wr r) (regWrite r) :=
  ⟨fun d => decode_reg .wr r d (dataOk_wr_four d), exec_selectReg_wr r, fun _ _ hn hd =>
    ⟨decode_regOffset_width hn r hd, execBusFault_of_fails (busCheck_regOffset hn r) .wr⟩⟩

theorem toNat_append_eq_add {m n : Nat} (x : BitVec m) (y : BitVec n) : (x ++ y).toNat = 2 ^ n * x.toNat + y.toNat := by
  rw [BitVec.toNat_append, ← Nat.shiftLeft_add_eq_or_of_lt y.isLt, Nat.shiftLeft_eq, Nat.mul_comm]

theorem flagBit_toNat (b : Bool) : (flagBit b).toNat = b.toNat := by
  cases b <;> rfl

/-- STATUS as a sum: each field at its place, with bit 3 always 0. -/
theorem statusWord_eq (s : State) : statusWord s =
    BitVec.ofNat 32 (s.busy.toNat + 2 * s.done.toNat + 4 * s.err.toNat + 16 * s.errcode.toNat) := by
  apply BitVec.eq_of_toNat_eq
  simp only [statusWord, BitVec.toNat_setWidth, BitVec.toNat_ofNat, toNat_append_eq_add, flagBit_toNat]
  omega

/-- Settles O18: each register's image, STATUS as the sum of its fields. -/
theorem registerReadsReturnTheirValue : Obligations.RegisterReadsReturnTheirValue := by
  refine ⟨readsRegister .ctrl, ?_, readsRegister .inLen, readsRegister .errRequired, readsRegister .errActual⟩
  simp only [← statusWord_eq]
  exact readsRegister .status

/-- Settles O19: `regWrite` of these registers is the identity. -/
theorem readOnlyRegisterWritesAreIgnored : Obligations.ReadOnlyRegisterWritesAreIgnored :=
  ⟨writesRegister .status, writesRegister .errRequired, writesRegister .errActual⟩

/-- Settles O20: `regWrite` of IN_LEN stores the data. -/
theorem inputLengthWriteStores : Obligations.InputLengthWriteStores := writesRegister .inLen

/-- The command of bit 0 does what a CTRL write issues. -/
theorem exec_commandOfBit (d : Word) (s : State) :
    exec (if d.getLsbD 0 then .decodeCmd else .ctrlNop) s = .next (issueCommand d s) := by
  cases hd : d.getLsbD 0
  · rw [issueCommand_nop hd]; rfl
  · rw [issueCommand_start hd]; rfl

/-- Settles O21: `regWrite` of CTRL is the command of bit 0. -/
theorem controlWriteIssuesTheCommand : Obligations.ControlWriteIssuesTheCommand := by
  refine ⟨?_, fun d s => ⟨_, exec_commandOfBit d s⟩⟩
  simp only [exec_commandOfBit]
  exact writesRegister .ctrl

end Sys2Proof.Safety
end

section
/-! PROOFS. What can stop an operation (60_exceptions.md R114 to R116): a HOST access or an ENGINE read faults or is refused only
where the operation it belongs to says so; and RESET (70_reset_and_hazards.md R128). -/

namespace Sys2Proof.Safety

open Sys2Proof.Machine

/-- A checked access faults only as the access it performs. -/
theorem checkedAccess_fault {r : Region} {dir : Dir} {n : Width} {a : Offset} {s : State} {f : Fault}
    {k : State → Host.Outcome State Fault Refusal} (h : checkedAccess r dir n a s k = .fault f) : k s = .fault f := by
  unfold checkedAccess at h
  split at h
  · cases h
  · split at h
    · exact h
    · cases h

/-- A write that is allowed only while BUSY = 0 faults only while BUSY = 1, as HOST_WRITE_WHILE_BUSY. -/
theorem idleWrite_fault {r : Region} {n : Width} {a : Offset} {s : State} {f : Fault} {write : State → State}
    (h : checkedAccess r .wr n a s (fun s => if s.busy then .fault .hostWriteWhileBusy else .next (write s)) = .fault f) :
    f = .hostWriteWhileBusy ∧ s.busy = true := by
  have hk := checkedAccess_fault h
  split at hk <;> cases hk
  next hb => exact ⟨rfl, hb⟩

theorem execInWr_fault {n : Width} {a : Offset} {v : Word} {s : State} {f : Fault} (h : execInWr n a v s = .fault f) :
    f = .hostWriteWhileBusy ∧ s.busy = true :=
  idleWrite_fault h

theorem execOutWr_fault {n : Width} {a : Offset} {v : Word} {s : State} {f : Fault} (h : execOutWr n a v s = .fault f) :
    f = .hostWriteWhileBusy ∧ s.busy = true :=
  idleWrite_fault h

theorem execInRd_ne_fault (n : Width) (a : Offset) (s : State) (f : Fault) : execInRd n a s ≠ .fault f :=
  fun h => nomatch checkedAccess_fault h

theorem execOutRd_ne_fault (n : Width) (a : Offset) (s : State) (f : Fault) : execOutRd n a s ≠ .fault f := by
  intro h
  have hk := checkedAccess_fault h
  split at hk <;> cases hk

theorem execBusFault_ne_fault (dir : Dir) (n : Width) (a : Offset) (s : State) (f : Fault) :
    execBusFault dir n a s ≠ .fault f := by
  unfold execBusFault
  split <;> nofun

theorem execRgbaPack_ne_fault (y : BitVec 8) (x : BitVec 9) (r4 g4 b4 : Nibble) (s : State) (f : Fault) :
    execRgbaPack y x r4 g4 b4 s ≠ .fault f := by
  unfold execRgbaPack
  split <;> nofun

/-- An ENGINE read faults on an unwritten byte as UNWRITTEN_INPUT, and otherwise only as what uses the byte. -/
theorem engineRead_fault {s : State} {a : Nat} {f : Fault} {use : Byte → Host.Outcome State Fault Refusal}
    (h : engineRead s a use = .fault f) :
    (f = .unwrittenInput ∧ readByte s.inRam a = none) ∨ ∃ b, use b = .fault f := by
  unfold engineRead at h
  split at h
  · next b _ => exact .inr ⟨b, h⟩
  · next hb => cases h; exact .inl ⟨rfl, hb⟩

/-- An ENGINE read is refused only as what uses the byte. -/
theorem engineRead_refused {s : State} {a : Nat} {r : Refusal} {use : Byte → Host.Outcome State Fault Refusal}
    (h : engineRead s a use = .refused r) : ∃ b, use b = .refused r := by
  unfold engineRead at h
  split at h
  · next b _ => exact ⟨b, h⟩
  · cases h

/-- Settles O40: the HOST's writes fault only while BUSY = 1 and an ENGINE step only on a byte it reads; every other operation
has no fault in its meaning. -/
theorem onlyTheTwoModelFaults : Obligations.OnlyTheTwoModelFaults := by
  intro i s f h
  cases i with
  | inWr n a v =>
    obtain ⟨hf, hb⟩ := execInWr_fault h
    exact .inl ⟨hf, hb, .inl ⟨n, a, v, rfl⟩⟩
  | outWr n a v =>
    obtain ⟨hf, hb⟩ := execOutWr_fault h
    exact .inl ⟨hf, hb, .inr ⟨n, a, v, rfl⟩⟩
  | seqPalLoad =>
    obtain ⟨hf, hlo⟩ | ⟨lo, h⟩ := engineRead_fault h
    · exact .inr ⟨hf, .inl ⟨rfl, .inl hlo⟩⟩
    · obtain ⟨hf, hhi⟩ | ⟨hi, h⟩ := engineRead_fault h
      · exact .inr ⟨hf, .inl ⟨rfl, .inr hhi⟩⟩
      · cases h
  | seqRowStart =>
    obtain ⟨hf, hscb⟩ | ⟨scb, h⟩ := engineRead_fault h
    · exact .inr ⟨hf, .inr (.inl ⟨rfl, hscb⟩)⟩
    · cases h
  | seqPixelPair =>
    obtain ⟨hf, hpix⟩ | ⟨b, h⟩ := engineRead_fault h
    · exact .inr ⟨hf, .inr (.inr ⟨rfl, hpix⟩)⟩
    · cases h
  | inRd n a => exact absurd h (execInRd_ne_fault n a s f)
  | outRd n a => exact absurd h (execOutRd_ne_fault n a s f)
  | busFault dir n a v => exact absurd h (execBusFault_ne_fault dir n a s f)
  | rgbaPack y x r4 g4 b4 => exact absurd h (execRgbaPack_ne_fault y x r4 g4 b4 s f)
  | seqIdle | decodeCmd | ctrlNop | ctrlRd | ctrlWr | statusRd | statusWr | inLenRd | inLenWr | errRequiredRd | errRequiredWr
  | errActualRd | errActualWr | paletteWordParse | scbSelect | pixelSplit | paletteLookup | channelExpand => cases h

/-- Settles O41: an operation is refused only for a term that is not well-formed: an access of another region, a BUS_FAULT that
passes the checks, a pixel outside the bitmap. -/
theorem noWellFormedOperationIsRefused : Obligations.NoWellFormedOperationIsRefused := by
  intro i s r hw h
  cases i with
  | inRd n a => cases (execInRd_of_passes hw).symm.trans h
  | outRd n a =>
    have h := (execOutRd_of_passes hw).symm.trans h
    split at h <;> cases h
  | inWr n a v =>
    obtain ⟨hp, -⟩ := Bool.and_eq_true_iff.mp hw
    have h := (execInWr_of_passes hp).symm.trans h
    split at h <;> cases h
  | outWr n a v =>
    obtain ⟨hp, -⟩ := Bool.and_eq_true_iff.mp hw
    have h := (execOutWr_of_passes hp).symm.trans h
    split at h <;> cases h
  | busFault dir n a v =>
    obtain ⟨hfails, -⟩ := Bool.and_eq_true_iff.mp hw
    obtain ⟨c, hc⟩ := Option.isSome_iff_exists.mp hfails
    cases (execBusFault_of_fails hc dir s).symm.trans h
  | rgbaPack y x r4 g4 b4 =>
    obtain ⟨hy, hx⟩ := Bool.and_eq_true_iff.mp hw
    cases (execRgbaPack_of_pixel r4 g4 b4 s (of_decide_eq_true hy) (of_decide_eq_true hx)).symm.trans h
  | seqPalLoad =>
    obtain ⟨lo, h⟩ := engineRead_refused h
    obtain ⟨hi, h⟩ := engineRead_refused h
    cases h
  | seqRowStart | seqPixelPair =>
    obtain ⟨b, h⟩ := engineRead_refused h
    cases h
  | seqIdle | decodeCmd | ctrlNop | ctrlRd | ctrlWr | statusRd | statusWr | inLenRd | inLenWr | errRequiredRd | errRequiredWr
  | errActualRd | errActualWr | paletteWordParse | scbSelect | pixelSplit | paletteLookup | channelExpand => cases h

/-- Settles O10: the decoder makes the failing access a BUS_FAULT, and that is a BusError with the cause of the checks. -/
theorem busErrorChangesOnlyTheResponse : Obligations.BusErrorChangesOnlyTheResponse :=
  fun n a _ s hc => ⟨execBusFault_of_fails hc .rd s, fun _ => execBusFault_of_fails hc .wr s, fun dir v hd =>
    (decode_txnKey dir n a v).trans (decodeFields_fails hd hc)⟩

/-- Settles O34: the step is `applyReset`, which starts from the reset state whatever the state before was. -/
theorem resetClearsTheBlock : Obligations.ResetClearsTheBlock :=
  fun _ _ hs => ⟨_, step_reset hs, rfl, rfl, rfl, rfl, rfl, rfl, rfl, rfl, rfl, rfl, rfl, readByte_nil, readByte_nil⟩

end Sys2Proof.Safety
end

section
/-! PROOFS. BUSY during a decode (70_reset_and_hazards.md R137): it stays 1 until the last of the remaining steps. -/

namespace Sys2Proof.Safety

open Sys2Proof.Machine

/-- A decode that no HOST accesses is busy after any number of steps below the remaining ones. -/
theorem run_decode_busy {k : Nat} {s : State} (hinv : BlockInv s) (hd : DecodeSoFar s) (hb : s.busy = true)
    (hw : inputWritten s.inRam) (hs : s.inputs = []) (hk : k < remainingSteps s) :
    ∃ t, Host.Core.run Sys2Proof.core k s = .next t ∧ t.busy = true := by
  induction k generalizing s with
  | zero => exact ⟨s, rfl, hb⟩
  | succ k ih =>
    obtain ⟨t, hst, hinvt, hdt, hin, -, hinputs, hrem, hend⟩ := step_decode hinv hd hb hw hs
    have hkt : k < remainingSteps t := by omega
    have hbt : t.busy = true := hend.resolve_right fun ⟨hbt, _⟩ => by simp [remainingSteps, hbt] at hkt
    rw [run_succ_of_step k hst]
    exact ih hinvt hdt hbt (hin ▸ hw) hinputs hkt

/-- A CTRL write whose data has bit 0 = 1 starts the ENGINE of an idle block with IN_LEN long enough. -/
theorem step_ctrlWrite_startEngine {s : State} {d : Word} (hb : s.busy = false) (hlen : 32768 ≤ s.inLen.toNat)
    (hd : d.getLsbD 0 = true) (hs : s.inputs = [.bus 0x608000#32 d]) :
    step s = .next (respond .writeOk (startEngine (clearRecord (tick (setInputs [] s))))) := by
  have hstep : step s = .next (respond .writeOk (issueDecode (tick (setInputs [] s)))) :=
    (step_ctrlWrite_start hd hs).trans (step_pseudoDecode rfl)
  rw [hstep]
  obtain ⟨hbusy, -⟩ | ⟨-, hshort, -⟩ | ⟨-, -, he⟩ := issueDecode_cases (tick (setInputs [] s))
  · rw [tick_busy, setInputs_busy, hb] at hbusy
    cases hbusy
  · rw [tick_inLen, setInputs_inLen] at hshort
    omega
  · rw [he]

/-- Settles O46: the CTRL write leaves 32456 steps, before the last of which the ENGINE is busy, and a busy block is not done. -/
theorem decodeIsBusyUntilItsLastStep : Obligations.DecodeIsBusyUntilItsLastStep := by
  intro s d k hinv hb hlen hw hd hs hk
  have hstep := step_ctrlWrite_startEngine hb hlen hd hs
  have hinvt := stepKeepsTheInvariant s _ hinv hstep
  obtain ⟨t, ht, hbt⟩ := run_decode_busy hinvt { startEngine_soFar _ with } rfl hw rfl
    (hk.trans_eq (remainingSteps_startEngine (clearRecord (tick (setInputs [] s)))).symm)
  have hdone : ¬ t.done = true := fun hdone => (hinvt.run ht).status.busyDone ⟨hbt, hdone⟩
  exact ⟨t, (run_add 1 k (run_one hstep)).trans ht, hbt, Bool.eq_false_iff.mpr hdone⟩

end Sys2Proof.Safety
end
